-- ==== Sys2Proof/Word.lean ====
section
/-! DEFINITION. The two word types of gdichk-CORE (00_scope.md R7, 30_encoding.md R60). -/

namespace Sys2Proof

/-- A byte of the output sink (R41, R42). -/
abbrev Byte := BitVec 8

/-- A command word, `cw[31:0]` (R60). -/
abbrev Word := BitVec 32

end Sys2Proof
end

