-- ==== Sys2Proof/Syntax.lean ====
section
/-! DEFINITION. The commands (30_encoding.md R63, one constructor per row of the opcode map) and the assembler's lines
(R66, R67). -/

namespace Sys2Proof

/-- The five commands with their operand fields (R61, R62). The fields have the widths of the command word, so every term of
this type is a command that some word encodes: there is nothing to check about it. -/
inductive Instr where
  /-- Load the timecode registers (R81). -/
  | ldt (mm ss ff : BitVec 8)
  /-- Advance the timecode by one frame (R82). -/
  | adv
  /-- Emit one sector for the current timecode (R101). -/
  | enc
  /-- Emit one pregap region from the current timecode (R110). -/
  | pregap
  /-- Truncate the sink and emit `count` zero bytes (R120). -/
  | null (count : BitVec 28)
  deriving DecidableEq, Repr

/-- One line of the spec's assembler: a command with decimal operands of any size (R66) or a pseudo-operation (R67). Whether
the operands are in range is `Asm.wellFormed`. -/
inductive Asm where
  | ldt (mm ss ff : Nat)
  | adv
  | enc
  | pregap
  | null (count : Nat)
  /-- `PREGAP.D mm, ss, ff`: the writer tool's mode `-d` (R67). -/
  | pregapD (mm ss ff : Nat)
  /-- `PREGAP.A`: the writer tool's mode `-a` (R67, R121). -/
  | pregapA
  deriving DecidableEq, Repr

end Sys2Proof
end

