-- ==== Sys2Proof/WellFormed.lean ====
section
/-! DEFINITION. The operand ranges an assembler must enforce (30_encoding.md R66; 93_implementation_defined.md U9). An `Instr`
needs no check: its fields have the command word's widths. -/

namespace Sys2Proof

/-- A timecode operand is in range: 0 to 255. R66: values over 59 or 74 must NOT be rejected. -/
def Asm.byteOperand (d : Nat) : Bool := d ≤ 255

/-- A count operand is in range: 0 to 268,435,455 (R66, R120). -/
def Asm.countOperand (n : Nat) : Bool := n ≤ 268435455

/-- Every operand of the line is in the range R66 shows. -/
def Asm.wellFormed : Asm → Bool
  | .ldt mm ss ff => Asm.byteOperand mm && Asm.byteOperand ss && Asm.byteOperand ff
  | .adv => true
  | .enc => true
  | .pregap => true
  | .null count => Asm.countOperand count
  | .pregapD mm ss ff => Asm.byteOperand mm && Asm.byteOperand ss && Asm.byteOperand ff
  | .pregapA => true

end Sys2Proof
end

