-- ==== Sys2Proof/Decode.lean ====
section
/-! DEFINITION. The command word's decoder, total over the 2^32 words (30_encoding.md R64, R65), the encoder written from the
same field positions (R61), and the opcode map as rows of mask and match (R63). -/

namespace Sys2Proof

/-- Why a word is illegal (R65). Both reasons raise the same fault. -/
inductive IllegalWord where
  /-- Opcode 0x0 or 0x6 to 0xF. -/
  | opcode (op : BitVec 4)
  /-- A format T or format Z word whose `zero` field is not 0. -/
  | zeroField (op : BitVec 4)
  deriving DecidableEq, Repr

/-- What the decoder answers: one command with its operands, or ILLEGAL with the reason (R64). -/
inductive Decoded where
  | instr (i : Instr)
  | illegal (why : IllegalWord)
  deriving DecidableEq, Repr

/-- `cw[31:28]`, the opcode (R61). -/
def opField (cw : Word) : BitVec 4 := cw.extractLsb' 28 4

/-- `cw[27:24]`, the zero field of format T (R61). -/
def zeroFieldT (cw : Word) : BitVec 4 := cw.extractLsb' 24 4

/-- `cw[27:0]`, the zero field of format Z and the count of format N (R61). -/
def lowField (cw : Word) : BitVec 28 := cw.extractLsb' 0 28

/-- `cw[23:16]` (R61). -/
def mmField (cw : Word) : BitVec 8 := cw.extractLsb' 16 8

/-- `cw[15:8]` (R61). -/
def ssField (cw : Word) : BitVec 8 := cw.extractLsb' 8 8

/-- `cw[7:0]` (R61). -/
def ffField (cw : Word) : BitVec 8 := cw.extractLsb' 0 8

/-- A format Z word: the command if `cw[27:0] = 0`, else illegal (R64, R65). -/
def decodeZ (cw : Word) (i : Instr) : Decoded :=
  if lowField cw = 0#28 then .instr i else .illegal (.zeroField (opField cw))

/-- The decoder of R64, in its order. -/
def decode (cw : Word) : Decoded :=
  if opField cw = 0x1#4 then
    if zeroFieldT cw = 0#4 then .instr (.ldt (mmField cw) (ssField cw) (ffField cw))
    else .illegal (.zeroField (opField cw))
  else if opField cw = 0x2#4 then decodeZ cw .adv
  else if opField cw = 0x3#4 then decodeZ cw .enc
  else if opField cw = 0x4#4 then decodeZ cw .pregap
  else if opField cw = 0x5#4 then .instr (.null (lowField cw))
  else .illegal (.opcode (opField cw))

/-- A word of formats Z and N: the opcode over 28 low bits (R61). -/
def encodeLow (op : BitVec 4) (low : BitVec 28) : Word := op ++ low

/-- The command word of a command, field by field (R61). -/
def encode : Instr → Word
  | .ldt mm ss ff => encodeLow 0x1#4 (0#4 ++ mm ++ ss ++ ff)
  | .adv => encodeLow 0x2#4 0#28
  | .enc => encodeLow 0x3#4 0#28
  | .pregap => encodeLow 0x4#4 0#28
  | .null count => encodeLow 0x5#4 count

/-- One row of the opcode map: a word selects it when `cw & mask = pattern` (R63). -/
structure OpRow where
  mnemonic : String
  mask : Word
  pattern : Word
  deriving DecidableEq, Repr

/-- The word selects the row (R63). -/
abbrev OpRow.selects (r : OpRow) (cw : Word) : Prop := cw &&& r.mask = r.pattern

/-- The row of the opcode map a command belongs to (R63). -/
def rowOf : Instr → OpRow
  | .ldt _ _ _ => ⟨"LDT", 0xFF000000#32, 0x10000000#32⟩
  | .adv => ⟨"ADV", 0xFFFFFFFF#32, 0x20000000#32⟩
  | .enc => ⟨"ENC", 0xFFFFFFFF#32, 0x30000000#32⟩
  | .pregap => ⟨"PREGAP", 0xFFFFFFFF#32, 0x40000000#32⟩
  | .null _ => ⟨"NULL", 0xF0000000#32, 0x50000000#32⟩

/-- The opcode map of R63. -/
def opcodeMap : List OpRow :=
  [rowOf (.ldt 0 0 0), rowOf .adv, rowOf .enc, rowOf .pregap, rowOf (.null 0)]

/-- The command an opcode-table word stands for, read by `decode`. A command is one 32-bit word, so the bits above `nbits` are
0 and there is no byte order (R49, R60). -/
def decodeTableWord (nbits w : Nat) : Option Instr :=
  match decode (BitVec.ofNat 32 (w % 2 ^ nbits)) with
  | .instr i => some i
  | .illegal _ => none

end Sys2Proof
end

