-- ==== Sys2Proof/Config.lean ====
section
/-! DEFINITION. What the spec fixes for this hardware (00_scope.md R6) and the free values of what it leaves open
(93_implementation_defined.md section 1). A free value has no body: no proof can learn which value it is. Its argument is the
model's edge counter `State.tick`, so that it may differ from one edge to the next. -/

namespace Sys2Proof.Config

/-- `SECTOR_BYTES` (R6). -/
@[simp] abbrev sectorBytes : Nat := 2352

/-- `PREGAP_NULL_BYTES` (R6). -/
@[simp] abbrev pregapNullBytes : Nat := 176400

/-- `PREGAP_SECTORS` (R6). -/
@[simp] abbrev pregapSectors : Nat := 150

/-- `FRAMES_PER_SECOND` (R6): the frame carries when it exceeds 74. -/
@[simp] abbrev framesPerSecond : Nat := 75

/-- `SECONDS_PER_MINUTE` (R6): the second carries when it exceeds 59. -/
@[simp] abbrev secondsPerMinute : Nat := 60

/-- The mode byte, `MODE` (R6, R22). -/
@[simp] abbrev modeByte : Byte := 0x01#8

/-- The payload byte (R22). -/
@[simp] abbrev payloadByte : Byte := 0x00#8

/-- `CARRY_NESTED` (R6, D8): the sequential reading of the second-carry test. DESIGN CHOICE of the spec, log 10. -/
def carryNested : Bool := false

/-- The default of `WMIN`, the storage width of MIN (R6). -/
@[simp] abbrev wminDefault : Nat := 32

/-- The least `WMIN` an implementation may take (R6). -/
@[simp] abbrev wminLeast : Nat := 9

/-- MIN after the reset at this edge (R25, U8; log 2). -/
opaque unspecMin : Nat → Nat

/-- SEC after the reset at this edge (R25, U8; log 2). -/
opaque unspecSec : Nat → BitVec 8

/-- FRM after the reset at this edge (R25, U8; log 2). -/
opaque unspecFrm : Nat → BitVec 8

/-- NREM after the reset at this edge (R25, U10; log 3). -/
opaque unspecNrem : Nat → BitVec 28

/-- SREM after the reset at this edge (R25, U10; log 3). -/
opaque unspecSrem : Nat → BitVec 8

/-- BIDX after the reset at this edge (R25, U10; log 3). -/
opaque unspecBidx : Nat → BitVec 12

/-- ADVA after the reset at this edge (R25, U10; log 3). -/
opaque unspecAdva : Nat → Bool

/-- Whether the beat answered `err` at this edge took effect in the sink (R43, U7; log 5). -/
opaque failedBeatTaken : Nat → Bool

/-- Whether the sink took the beat that the reset at this edge withdrew (R151, U11; log 6). -/
opaque withdrawnBeatTaken : Nat → Bool

/-- The bits of `tc_min` at this edge while `TCV = 0`, as a number cut to the port's width (R14, R21; log 7). -/
opaque unspecTcMin : Nat → Nat

/-- The bits of `tc_sec` at this edge while `TCV = 0` (R14, R21; log 7). -/
opaque unspecTcSec : Nat → Byte

/-- The bits of `tc_frm` at this edge while `TCV = 0` (R14, R21; log 7). -/
opaque unspecTcFrm : Nat → Byte

/-- The bits of `bcd_min` at this edge while `TCV = 0` (R14, R21; log 7). -/
opaque unspecBcdMin : Nat → Byte

/-- The bits of `bcd_sec` at this edge while `TCV = 0` (R14, R21; log 7). -/
opaque unspecBcdSec : Nat → Byte

/-- The bits of `bcd_frm` at this edge while `TCV = 0` (R14, R21; log 7). -/
opaque unspecBcdFrm : Nat → Byte

/-- `snk_kind` at this edge while no beat is on offer (R23; log 8). -/
opaque idleSnkKind : Nat → BitVec 1

/-- `snk_data` at this edge while no beat is on offer (R23; log 8). -/
opaque idleSnkData : Nat → Byte

/-- `sector_byte` at an offset outside 0 to 2351, for which R100 gives nothing (log 15). -/
opaque offSectorByte : Nat → Byte

end Sys2Proof.Config
end

