-- ==== Sys2Proof/Machine/State.lean ====
section
/-! DEFINITION. Everything the spec gives the machine as plain data (10_state.md), the pins host and sink drive (R23), the
content of the sink (20_memory.md R41), and the state after reset (R25). -/

namespace Sys2Proof.Machine

/-- Reasons for the machine to stop with a fault: there are none. The spec's two faults, USAGE and SINK, are NEXT states in
which PHASE is HALT (60_exceptions.md R136), and every edge of every state has an effect the spec gives (R23), so nobody
raises one (log 22). -/
inductive Fault where
  deriving DecidableEq, Repr

/-- Reasons for an instruction to be refused. -/
inductive Refusal where
  /-- An instruction without a meaning; raised only by an arm of `exec` that has none, safe. No arm of this model raises it. -/
  | notModelled (mnemonic : String)
  deriving DecidableEq, Repr

/-- The sequencer's position, the stand-in for a program counter (R16). -/
inductive Phase where
  | idle
  | trunc
  | zeros
  | sector
  | halt
  deriving DecidableEq, Repr

/-- The block's input pins at one rising edge of `clk` (R23). -/
structure Pins where
  rst : Bool
  cmdValid : Bool
  cmdWord : Word
  snkReady : Bool
  snkErr : Bool
  deriving DecidableEq, Repr

/-- The pins of an edge at which the host does nothing and the sink answers nothing. -/
def Pins.quiet : Pins := ⟨false, false, 0#32, false, false⟩

/-- One transfer on the sink channel (R41). -/
inductive Beat where
  | trunc
  | byte (b : Byte)
  deriving DecidableEq, Repr

/-- A timecode as decimal components, `TC = (MIN, SEC, FRM)`, read as naturals (R7, R10). -/
structure Tc where
  min : Nat
  sec : Nat
  frm : Nat
  deriving DecidableEq, Repr

/-- The state of the block, of the sink agent, and the inputs still to come. -/
structure State where
  /-- MIN, unbounded (R11). -/
  min : Nat
  /-- SEC (R11). -/
  sec : BitVec 8
  /-- FRM (R11). -/
  frm : BitVec 8
  /-- TCV (R14). -/
  tcv : Bool
  /-- PHASE (R16). -/
  phase : Phase
  /-- FAULT (R19). -/
  fault : BitVec 2
  /-- NREM (R17). -/
  nrem : BitVec 28
  /-- SREM (R17). -/
  srem : BitVec 8
  /-- BIDX (R17). -/
  bidx : BitVec 12
  /-- ADVA (R17). -/
  adva : Bool
  /-- SINK, the sink agent's content, first byte first (R41). -/
  sink : List Byte
  /-- The model's own field: the pins of the coming edges, earliest first; quiet after the last (log 1). -/
  env : List Pins
  /-- The model's own field: the number of edges so far, the argument of the free values (log 12). -/
  tick : Nat
  deriving DecidableEq, Repr

/-- The state right after reset (R25). What R25 leaves unspecified is a free value (logs 2, 3). No host has offered anything
yet and the sink's list is empty (logs 1, 4). -/
def State.reset : State where
  min := Config.unspecMin 0
  sec := Config.unspecSec 0
  frm := Config.unspecFrm 0
  tcv := false
  phase := .idle
  fault := 0#2
  nrem := Config.unspecNrem 0
  srem := Config.unspecSrem 0
  bidx := Config.unspecBidx 0
  adva := Config.unspecAdva 0
  sink := []
  env := []
  tick := 0

end Sys2Proof.Machine
end

