-- ==== Sys2Proof/Machine/Flags.lean ====
section
/-! DEFINITION. The flags BUSY and HALT, the two handshake outputs that follow PHASE, and the status word
(10_state.md R16, R18, R20, R23). -/

namespace Sys2Proof.Machine

/-- The code of USAGE in FAULT (R130). -/
def usageCode : BitVec 2 := 1#2

/-- The code of SINK in FAULT (R130). -/
def sinkCode : BitVec 2 := 3#2

/-- BUSY: PHASE is TRUNC, ZEROS or SECTOR (R18). -/
def busy (s : State) : Bool :=
  match s.phase with
  | .idle => false
  | .trunc => true
  | .zeros => true
  | .sector => true
  | .halt => false

/-- HALT: PHASE is HALT (R18). -/
def halted (s : State) : Bool := decide (s.phase = .halt)

/-- The output `cmd_ready`: 1 exactly when PHASE is IDLE (R23). -/
def cmdReady (s : State) : Bool := decide (s.phase = .idle)

/-- The output `snk_valid`: 1 exactly when PHASE is TRUNC, ZEROS or SECTOR (R23). -/
def snkValid (s : State) : Bool := busy s

/-- The read-only word `status`: bits 7:6 zero, 5:4 FAULT, 3 zero, 2 TCV, 1 HALT, 0 BUSY (R20). -/
def statusWord (s : State) : BitVec 8 :=
  0#2 ++ s.fault ++ 0#1 ++ BitVec.ofBool s.tcv ++ BitVec.ofBool (halted s) ++ BitVec.ofBool (busy s)

end Sys2Proof.Machine
end

