-- ==== Sys2Proof/Machine/Operands.lean ====
section
/-! DEFINITION. Operand assembly (30_encoding.md R62) and the reading of the timecode registers as naturals (00_scope.md R7). -/

namespace Sys2Proof.Machine

/-- The operand `mm` as the value written to MIN: unsigned, zero-extended (R62). -/
def minOperand (mm : BitVec 8) : Nat := mm.toNat

/-- The operand `count` as the value written to NREM, unchanged (R62). -/
def countOperand (count : BitVec 28) : BitVec 28 := count

/-- A component as the 8 bits of SEC or FRM (R11). The results of `adv` are below 256, so nothing is cut (R15). -/
def componentBits (d : Nat) : BitVec 8 := BitVec.ofNat 8 d

/-- The timecode registers as a triple of naturals (R7, R10). -/
def State.tc (s : State) : Tc := ⟨s.min, s.sec.toNat, s.frm.toNat⟩

end Sys2Proof.Machine
end

