-- ==== Sys2Proof/Machine/Ops.lean ====
section
/-! DEFINITION. The named operations over the state: writing the timecode, the sink's two primitives (20_memory.md R41, R42),
starting an operation (10_state.md R17), taking a fault (60_exceptions.md R136), and the edge's pins (10_state.md R23). -/

namespace Sys2Proof.Machine

/-- What a step or a meaning answers. -/
abbrev Result := Host.Outcome State Fault Refusal

/-- `TC <- (m, s, f)`: the three registers at once (R7). -/
def setTc (t : Tc) (s : State) : State :=
  { s with min := t.min, sec := componentBits t.sec, frm := componentBits t.frm }

/-- What a beat that took effect does to SINK: TRUNC empties it, BYTE appends its byte (R41). -/
def takeBeat (b : Beat) (sink : List Byte) : List Byte :=
  match b with
  | .trunc => []
  | .byte v => sink ++ [v]

/-- `raise Fault(c)`: FAULT and PHASE change and nothing else (R136). There is no return beside it: only reset leaves HALT
(R137). -/
def raiseFault (code : BitVec 2) (s : State) : State := { s with fault := code, phase := .halt }

/-- A command offered at `s` whose acceptance leads to `accepted`: it is accepted exactly when `cmd_ready = 1`; otherwise it is
not seen and nothing happens (R23, R57, R157; log 13). -/
def whenReady (s accepted : State) : Result :=
  if cmdReady s = true then .next accepted else .next s

/-- The `TCV` test of ADV, ENC and PREGAP: USAGE in place of the effect while no timecode was loaded (R14, R131). -/
def needTimecode (s effect : State) : State :=
  if s.tcv = true then effect else raiseFault usageCode s

/-- The acceptance step of an operation that offers beats: the four counters and the first phase (R17). -/
def startOperation (nrem : BitVec 28) (srem : BitVec 8) (adva : Bool) (phase : Phase) (s : State) : State :=
  { s with nrem := nrem, srem := srem, adva := adva, bidx := 0#12, phase := phase }

/-- `after_null`: SECTOR if sectors remain, else IDLE (R17). -/
def afterNull (s : State) : Phase := if 0 < s.srem.toNat then .sector else .idle

/-- The pins of the coming edge; quiet when host and sink have nothing more to do (R23; log 1). -/
def currentPins (s : State) : Pins := s.env.headD Pins.quiet

/-- The state with the coming edge's pins consumed (log 1). -/
def nextEdge (s : State) : State := { s with env := s.env.tail, tick := s.tick + 1 }

end Sys2Proof.Machine
end

