-- ==== Sys2Proof/Machine/Null.lean ====
section
/-! DEFINITION. The Null Generator: the command NULL (44_null_generator.md). -/

namespace Sys2Proof.Machine

/-- `NULL count`, the acceptance row of R17: a TRUNC beat, then `count` zero bytes, no sector (R120). The timecode is neither
read nor written, so `TCV` is not tested. -/
def execNull (count : BitVec 28) (s : State) : Result :=
  whenReady s (startOperation (countOperand count) 0#8 false .trunc s)

end Sys2Proof.Machine
end

