-- ==== Sys2Proof/Machine/Bcd.lean ====
section
/-! DEFINITION. The BCD Packer (41_bcd_packer.md): a function, no command. -/

namespace Sys2Proof.Machine

/-- `bcd_pack(d) = (d / 10) * 16 + (d % 10)` (R90). -/
def bcdPack (d : Nat) : Nat := d / 10 * 16 + d % 10

/-- `bcd8(d) = bcd_pack(d) mod 256`, the byte emitted and shown (R91, D6; log 11). -/
def bcd8 (d : Nat) : Byte := BitVec.ofNat 8 (bcdPack d)

/-- `bcd_unpack(b) = b[7:4] * 10 + b[3:0]`; not in the hardware, a tool for stating the round trip (R92). -/
def bcdUnpack (b : Byte) : Nat := (b.extractLsb' 4 4).toNat * 10 + (b.extractLsb' 0 4).toNat

end Sys2Proof.Machine
end

