-- ==== Sys2Proof/Machine/Sector.lean ====
section
/-! DEFINITION. The Sector Encoder: the byte at each offset of a sector and the command ENC (42_sector_encoder.md). -/

namespace Sys2Proof.Machine

/-- `sector_byte(i, m, s, f)` (R100). Outside the offsets 0 to 2351 the spec gives no byte and the value is free (log 15). -/
def sectorByte (i : Nat) (t : Tc) : Byte :=
  if i = 0 then 0x00#8
  else if 1 ≤ i ∧ i ≤ 10 then 0xFF#8
  else if i = 11 then 0x00#8
  else if i = 12 then bcd8 t.min
  else if i = 13 then bcd8 t.sec
  else if i = 14 then bcd8 t.frm
  else if i = 15 then Config.modeByte
  else if 16 ≤ i ∧ i ≤ 2351 then Config.payloadByte
  else Config.offSectorByte i

/-- `sector(m, s, f)`: the 2352 bytes in rising offset (R100). -/
def sector (t : Tc) : List Byte := (List.range Config.sectorBytes).map fun i => sectorByte i t

/-- `ENC`, the acceptance row of R17: one sector, no run of zeros, no advance. Its 2352 beats follow (R101). -/
def execEnc (s : State) : Result :=
  whenReady s (needTimecode s (startOperation 0#28 1#8 false .sector s))

end Sys2Proof.Machine
end

