-- ==== Sys2Proof/Machine/Timecode.lean ====
section
/-! DEFINITION. The Timecode Advancer: the carry chain `adv` and the commands LDT and ADV (40_timecode.md). -/

namespace Sys2Proof.Machine

/-- The carry chain of R80 under either reading of its second-carry test: sequential (`nested = false`), or nested in the frame
carry. The arithmetic is on naturals, so `f + 1` and `s + 1` do not wrap. -/
def advReading (nested : Bool) (t : Tc) : Tc :=
  let f2 := if t.frm + 1 > 74 then 0 else t.frm + 1
  let s1 := if t.frm + 1 > 74 then t.sec + 1 else t.sec
  if s1 > 59 ∧ (nested = false ∨ t.frm + 1 > 74) then ⟨t.min + 1, 0, f2⟩ else ⟨t.min, s1, f2⟩

/-- `adv`: one frame further (R80), with the reading the spec fixes (R6, D8; log 10). -/
def adv (t : Tc) : Tc := advReading Config.carryNested t

/-- `LDT mm, ss, ff`: `MIN <- mm; SEC <- ss; FRM <- ff; TCV <- 1` (R81). The operands are not range-checked (R84). -/
def execLdt (mm ss ff : BitVec 8) (s : State) : Result :=
  whenReady s { s with min := minOperand mm, sec := ss, frm := ff, tcv := true }

/-- `ADV`: `if TCV = 0 then raise Fault(USAGE); TC <- adv(TC)` (R82). -/
def execAdv (s : State) : Result :=
  whenReady s (needTimecode s (setTc (adv s.tc) s))

end Sys2Proof.Machine
end

