-- ==== Sys2Proof/Machine/Pregap.lean ====
section
/-! DEFINITION. The Pregap Generator: the command PREGAP and the bytes of a pregap region (43_pregap_generator.md). -/

namespace Sys2Proof.Machine

/-- `PREGAP`, the acceptance row of R17: 176,400 zero bytes, then 150 sectors with an advance after each. Its 529,201 beats
follow (R110). -/
def execPregap (s : State) : Result :=
  whenReady s (needTimecode s
    (startOperation (BitVec.ofNat 28 Config.pregapNullBytes) (BitVec.ofNat 8 Config.pregapSectors) true .trunc s))

/-- `n` successive sectors whose timecodes are `t`, `adv t`, `adv (adv t)`, … (R111). -/
def sectorsFrom : Nat → Tc → List Byte
  | 0, _ => []
  | n + 1, t => sector t ++ sectorsFrom n (adv t)

/-- The 529,200 bytes of a pregap region for the origin `t` (R46, R110). -/
def pregapRegion (t : Tc) : List Byte :=
  List.replicate Config.pregapNullBytes 0x00#8 ++ sectorsFrom Config.pregapSectors t

end Sys2Proof.Machine
end

