-- ==== Sys2Proof/Machine/Dispatch.lean ====
section
/-! DEFINITION. One arm per command: the effect of offering it at a state (10_state.md R17, acceptance steps). -/

namespace Sys2Proof.Machine

def exec (i : Instr) (s : State) : Host.Outcome State Fault Refusal :=
  match i with
  | .ldt mm ss ff => Sys2Proof.Machine.execLdt mm ss ff s
  | .adv => Sys2Proof.Machine.execAdv s
  | .enc => Sys2Proof.Machine.execEnc s
  | .pregap => Sys2Proof.Machine.execPregap s
  | .null count => Sys2Proof.Machine.execNull count s

end Sys2Proof.Machine
end

