-- ==== Sys2Proof/Machine/Beat.lean ====
section
/-! DEFINITION. The beat steps: the beat a busy phase offers, and what the sink's answer does (10_state.md R17, second table;
20_memory.md R43). -/

namespace Sys2Proof.Machine

/-- The beat on offer: one per busy phase, none in IDLE and HALT (R17, R54 d). -/
def offeredBeat (s : State) : Option Beat :=
  match s.phase with
  | .idle => none
  | .trunc => some .trunc
  | .zeros => some (.byte 0x00#8)
  | .sector => some (.byte (sectorByte s.bidx.toNat s.tc))
  | .halt => none

/-- SINK once the offered beat has taken effect (R41). -/
def sinkAfterBeat (s : State) : List Byte :=
  match offeredBeat s with
  | some b => takeBeat b s.sink
  | none => s.sink

/-- The block's own part of a TRUNC beat answered `ok` (R17). -/
def truncOk (s : State) : State :=
  { s with phase := if 0 < s.nrem.toNat then .zeros else afterNull s }

/-- The block's own part of a ZEROS beat answered `ok` (R17). -/
def zerosOk (s : State) : State :=
  let left := s.nrem - 1#28
  { s with nrem := left, phase := if left = 0#28 then afterNull s else s.phase }

/-- The last byte of a sector was answered `ok`: the advance of a PREGAP, and one sector fewer (R17, R111). -/
def sectorDone (s : State) : State :=
  let advanced := if s.adva = true then setTc (adv s.tc) s else s
  let left := s.srem - 1#8
  { advanced with bidx := 0#12, srem := left, phase := if left = 0#8 then .idle else s.phase }

/-- The block's own part of a SECTOR beat answered `ok` (R17). -/
def sectorOk (s : State) : State :=
  if s.bidx.toNat < 2351 then { s with bidx := s.bidx + 1#12 } else sectorDone s

/-- The offered beat is answered `ok`: the sink takes it and the counters move on (R17). -/
def beatOk (s : State) : State :=
  let taken := { s with sink := sinkAfterBeat s }
  match s.phase with
  | .idle => s
  | .trunc => truncOk taken
  | .zeros => zerosOk taken
  | .sector => sectorOk taken
  | .halt => s

/-- The offered beat is answered `err`: SINK is raised, the counters and TC keep their values (R132), and whether the sink took
the failed beat is free (R43, U7; log 5). -/
def beatErr (s : State) : State :=
  raiseFault sinkCode
    { s with sink := if Config.failedBeatTaken s.tick = true then sinkAfterBeat s else s.sink }

end Sys2Proof.Machine
end

