-- ==== Sys2Proof/Machine/Reset.lean ====
section
/-! DEFINITION. An edge with `rst = 1` (70_reset_and_hazards.md R150, R151; 10_state.md R25). -/

namespace Sys2Proof.Machine

/-- The block takes the reset values of R25 whatever state it was in; what R25 leaves unspecified is free (logs 2, 3). SINK is
not touched, but for a beat that was on offer and is withdrawn: whether the sink took it is free (R151, U11; log 6). -/
def resetEdge (s : State) : State where
  min := Config.unspecMin s.tick
  sec := Config.unspecSec s.tick
  frm := Config.unspecFrm s.tick
  tcv := false
  phase := .idle
  fault := 0#2
  nrem := Config.unspecNrem s.tick
  srem := Config.unspecSrem s.tick
  bidx := Config.unspecBidx s.tick
  adva := Config.unspecAdva s.tick
  sink := if Config.withdrawnBeatTaken s.tick = true then sinkAfterBeat s else s.sink
  env := s.env
  tick := s.tick

end Sys2Proof.Machine
end

