-- ==== Sys2Proof/Machine/Edge.lean ====
section
/-! DEFINITION. One rising edge of `clk` (10_state.md R23): reset, acceptance of a command, the answer to a beat, or nothing. -/

namespace Sys2Proof.Machine

/-- An illegal word was offered: USAGE when it is accepted, and no other effect (R65, R131). -/
def illegalCommand (s : State) : Result := whenReady s (raiseFault usageCode s)

/-- The host offers the word `cw` (R17, R57): its command's meaning, or the fault of an illegal word. -/
def offerCommand (cw : Word) (s : State) : Result :=
  match decode cw with
  | .instr i => exec i s
  | .illegal _ => illegalCommand s

/-- The sink's pins at an edge with a beat on offer: `err` wins over `ok`; with neither the beat stays on offer (R23, R134). -/
def answerBeat (p : Pins) (s : State) : State :=
  if p.snkErr = true then beatErr s else if p.snkReady = true then beatOk s else s

/-- What the edge with pins `p` does: reset wins over everything (R134); `cmd_*` counts only while `cmd_ready = 1`, `snk_ready`
and `snk_err` only while `snk_valid = 1` (R23). -/
def edge (p : Pins) (s : State) : Result :=
  if p.rst = true then .next (resetEdge s)
  else if cmdReady s = true then
    if p.cmdValid = true then offerCommand p.cmdWord s else .next s
  else if snkValid s = true then .next (answerBeat p s)
  else .next s

/-- The pins of an edge at which the host offers the word `cw` and does nothing else. -/
def Pins.offer (cw : Word) : Pins := { Pins.quiet with cmdValid := true, cmdWord := cw }

end Sys2Proof.Machine
end

