-- ==== Sys2Proof/Machine/Step.lean ====
section
/-! DEFINITION. The step: one rising edge of `clk` with the pins host and sink drive at it (10_state.md R17, R23), and where the
next command word comes from (20_memory.md R57). -/

namespace Sys2Proof.Machine

/-- One rising edge of `clk`. -/
def step (s : State) : Host.Outcome State Fault Refusal := edge (currentPins s) (nextEdge s)

/-- `s` with the host offering the word `w` at the coming edge, and the block ready to accept it (logs 1, 20). -/
def State.withFetchWord (s : State) (nbits w : Nat) : State :=
  { s with phase := .idle, env := Pins.offer (BitVec.ofNat 32 (w % 2 ^ nbits)) :: s.env }

end Sys2Proof.Machine
end

