-- ==== Sys2Proof/Machine/Assembler.lean ====
section
/-! DEFINITION. The spec's assembler (30_encoding.md R66) and its pseudo-operations (R67): from a line's text to command
words. It is the host's tool and no part of the block. -/

namespace Sys2Proof.Machine

/-- The commands a line stands for (R66, R67). A pseudo-operation's expansion is preceded by a reset when it is to match one
process invocation (R67, D9); the reset is the host's `rst`, not a word. -/
def expandAsm : Asm → List Instr
  | .ldt mm ss ff => [.ldt (BitVec.ofNat 8 mm) (BitVec.ofNat 8 ss) (BitVec.ofNat 8 ff)]
  | .adv => [.adv]
  | .enc => [.enc]
  | .pregap => [.pregap]
  | .null count => [.null (BitVec.ofNat 28 count)]
  | .pregapD mm ss ff => [.ldt (BitVec.ofNat 8 mm) (BitVec.ofNat 8 ss) (BitVec.ofNat 8 ff), .pregap]
  | .pregapA => [.null 352800#28]

/-- The words of a line, or none if an operand is out of range (R66). -/
def assemble (a : Asm) : Option (List Word) :=
  if Asm.wellFormed a = true then some ((expandAsm a).map encode) else none

/-- White space inside a line (log 21). -/
def isBlank (c : Char) : Bool := c == ' ' || c == '\t'

/-- The text without white space at its ends (log 21). -/
def trimBlanks (cs : List Char) : List Char := ((cs.dropWhile isBlank).reverse.dropWhile isBlank).reverse

/-- The pieces of a text between the separators. -/
def splitAtChar (sep : Char) : List Char → List (List Char)
  | [] => [[]]
  | c :: cs =>
    match splitAtChar sep cs with
    | [] => [[c]]
    | w :: ws => if c = sep then [] :: w :: ws else (c :: w) :: ws

/-- The value of a decimal digit. -/
def digitValue (c : Char) : Option Nat :=
  if 48 ≤ c.toNat ∧ c.toNat ≤ 57 then some (c.toNat - 48) else none

/-- The digits of `cs` after those already read into `n`. -/
def decimalFrom (n : Nat) : List Char → Option Nat
  | [] => some n
  | c :: cs =>
    match digitValue c with
    | some d => decimalFrom (n * 10 + d) cs
    | none => none

/-- A decimal operand: one digit or more (R66). -/
def decimalOperand (cs : List Char) : Option Nat := if cs = [] then none else decimalFrom 0 cs

/-- Every operand read, or none if one is no decimal number. -/
def readOperands : List (List Char) → Option (List Nat)
  | [] => some []
  | w :: ws =>
    match decimalOperand (trimBlanks w), readOperands ws with
    | some n, some ns => some (n :: ns)
    | _, _ => none

/-- The operands after a mnemonic: decimal numbers separated by commas, or nothing (R66). -/
def operandsOf (cs : List Char) : Option (List Nat) :=
  if trimBlanks cs = [] then some [] else readOperands (splitAtChar ',' cs)

/-- The line a mnemonic in capitals and its operands make (R66, R67). -/
def lineOf (mnemonic : List Char) (ops : List Nat) : Option Asm :=
  match ops with
  | [] =>
    if mnemonic = ['A', 'D', 'V'] then some .adv
    else if mnemonic = ['E', 'N', 'C'] then some .enc
    else if mnemonic = ['P', 'R', 'E', 'G', 'A', 'P'] then some .pregap
    else if mnemonic = ['P', 'R', 'E', 'G', 'A', 'P', '.', 'A'] then some .pregapA
    else none
  | [n] => if mnemonic = ['N', 'U', 'L', 'L'] then some (.null n) else none
  | [mm, ss, ff] =>
    if mnemonic = ['L', 'D', 'T'] then some (.ldt mm ss ff)
    else if mnemonic = ['P', 'R', 'E', 'G', 'A', 'P', '.', 'D'] then some (.pregapD mm ss ff)
    else none
  | _ => none

/-- The words of one line of text, with `;` starting a comment; a line with no command gives no word (R66). -/
def assembleLine (line : List Char) : Option (List Word) :=
  let body := trimBlanks (line.takeWhile (· != ';'))
  if body = [] then some []
  else
    let mnemonic := body.takeWhile fun c => !isBlank c
    match operandsOf (body.drop mnemonic.length) with
    | some ops =>
      match lineOf mnemonic ops with
      | some a => assemble a
      | none => none
    | none => none

/-- The words of a program, one command per line (R66); none if any line is no line of the assembler. -/
def assembleLines : List (List Char) → Option (List Word)
  | [] => some []
  | l :: ls =>
    match assembleLine l, assembleLines ls with
    | some ws, some rest => some (ws ++ rest)
    | _, _ => none

/-- The words of a program text (R66). -/
def assembleText (text : List Char) : Option (List Word) := assembleLines (splitAtChar '\n' text)

end Sys2Proof.Machine
end

