-- ==== Sys2Proof/Machine/Ports.lean ====
section
/-! DEFINITION. The output ports that are not in Flags.lean (10_state.md R21, R23). -/

namespace Sys2Proof.Machine

/-- `snk_kind`: 1 on a TRUNC beat, 0 on a BYTE beat (R23); free with no beat on offer (log 8). -/
def snkKind (s : State) : BitVec 1 :=
  match offeredBeat s with
  | some .trunc => 1#1
  | some (.byte _) => 0#1
  | none => Config.idleSnkKind s.tick

/-- `snk_data`: the byte of a BYTE beat, 0x00 on a TRUNC beat (R23); free with no beat on offer (log 8). -/
def snkData (s : State) : Byte :=
  match offeredBeat s with
  | some .trunc => 0x00#8
  | some (.byte b) => b
  | none => Config.idleSnkData s.tick

/-- `tc_min`, a port of `WMIN` bits (R6, R21; log 9); unspecified bits while `TCV = 0` (log 7). -/
def tcMin (wmin : Nat) (s : State) : BitVec wmin :=
  BitVec.ofNat wmin (if s.tcv = true then s.min else Config.unspecTcMin s.tick)

/-- `tc_sec` (R21); unspecified bits while `TCV = 0` (log 7). -/
def tcSec (s : State) : Byte := if s.tcv = true then s.sec else Config.unspecTcSec s.tick

/-- `tc_frm` (R21); unspecified bits while `TCV = 0` (log 7). -/
def tcFrm (s : State) : Byte := if s.tcv = true then s.frm else Config.unspecTcFrm s.tick

/-- `bcd_min` (R21); unspecified bits while `TCV = 0` (log 7). -/
def bcdMin (s : State) : Byte := if s.tcv = true then bcd8 s.min else Config.unspecBcdMin s.tick

/-- `bcd_sec` (R21); unspecified bits while `TCV = 0` (log 7). -/
def bcdSec (s : State) : Byte := if s.tcv = true then bcd8 s.sec.toNat else Config.unspecBcdSec s.tick

/-- `bcd_frm` (R21); unspecified bits while `TCV = 0` (log 7). -/
def bcdFrm (s : State) : Byte := if s.tcv = true then bcd8 s.frm.toNat else Config.unspecBcdFrm s.tick

end Sys2Proof.Machine
end

