-- ==== Sys2Proof/Safety.lean ====
section
/-! DEFINITION. The terms the claims use: runs of edges, the invariant of the control state, the beats an operation has left,
what was accepted and answered in a run, when a run has completed (70_reset_and_hazards.md R162, R165), and agreement on
everything the spec gives a value. -/

namespace Sys2Proof.Machine

/-- `k` edges. -/
def run : Nat → State → Result
  | 0, s => .next s
  | k + 1, s =>
    match step s with
    | .next t => run k t
    | .fault r => .fault r
    | .refused r => .refused r

/-- `adv` applied `k` times, `adv^k` (R7). -/
def advPow : Nat → Tc → Tc
  | 0, t => t
  | k + 1, t => advPow k (adv t)

/-- A valid timecode: second in 0 to 59, frame in 0 to 74, any minute (R12). -/
def Tc.Valid (t : Tc) : Prop := t.sec ≤ 59 ∧ t.frm ≤ 74

/-- The frame count `c(m, s, f) = (m * 60 + s) * 75 + f` (R83 law 7). -/
def frameCount (t : Tc) : Nat := (t.min * 60 + t.sec) * 75 + t.frm

/-- The counters while a TRUNC beat is on offer: a whole PREGAP or a NULL (R17). -/
def TruncShape (s : State) : Prop :=
  s.bidx = 0#12 ∧
    ((s.adva = true ∧ s.tcv = true ∧ s.nrem.toNat = Config.pregapNullBytes ∧ s.srem.toNat = Config.pregapSectors) ∨
      (s.adva = false ∧ s.srem = 0#8))

/-- The counters while a zero byte is on offer (R17, R115). -/
def ZerosShape (s : State) : Prop :=
  s.bidx = 0#12 ∧ 0 < s.nrem.toNat ∧
    ((s.adva = true ∧ s.tcv = true ∧ s.nrem.toNat ≤ Config.pregapNullBytes ∧ s.srem.toNat = Config.pregapSectors) ∨
      (s.adva = false ∧ s.srem = 0#8))

/-- The counters while a sector byte is on offer (R17, R115). -/
def SectorShape (s : State) : Prop :=
  s.tcv = true ∧ s.nrem = 0#28 ∧ s.bidx.toNat < Config.sectorBytes ∧ 0 < s.srem.toNat ∧
    ((s.adva = true ∧ s.srem.toNat ≤ Config.pregapSectors) ∨ (s.adva = false ∧ s.srem.toNat = 1))

/-- The invariant of the control state: FAULT is non-zero exactly in HALT and never 2 (R19, R20), and each busy phase has the
counters of a PREGAP, a NULL or an ENC under way, with the timecode loaded where sectors remain (R14, R17). -/
def State.Inv (s : State) : Prop :=
  (s.phase = .halt ↔ s.fault ≠ 0#2) ∧ s.fault ≠ 2#2 ∧
    (s.phase = .trunc → TruncShape s) ∧ (s.phase = .zeros → ZerosShape s) ∧ (s.phase = .sector → SectorShape s)

/-- The measure of R165: the beats the operation under way still has to offer. -/
def beatsLeft (s : State) : Nat :=
  (if s.phase = .trunc then 1 else 0) + s.nrem.toNat + Config.sectorBytes * s.srem.toNat - s.bidx.toNat

/-- Edges in which the sink answers exactly `n` beats, every one `ok`, after delays of its own choosing, the last of them with
the last edge, and the host does not reset. What the host drives on the command channel is not restricted. -/
def answersOk : List Pins → Nat → Bool
  | [], n => n == 0
  | p :: ps, n =>
    n != 0 && !p.rst && !p.snkErr && (if p.snkReady = true then answersOk ps (n - 1) else answersOk ps n)

/-- The edge offers the word `cw` and does not reset; the sink's pins are not restricted. -/
def Pins.Offers (cw : Word) (p : Pins) : Prop := p.rst = false ∧ p.cmdValid = true ∧ p.cmdWord = cw

/-- The command word accepted at the coming edge, if one is (R23). -/
def acceptedNow (s : State) : List Word :=
  let p := currentPins s
  if p.rst = false ∧ cmdReady s = true ∧ p.cmdValid = true then [p.cmdWord] else []

/-- The command words accepted in the next `k` edges, in order (R162). -/
def acceptedWords : Nat → State → List Word
  | 0, _ => []
  | k + 1, s =>
    match step s with
    | .next t => acceptedNow s ++ acceptedWords k t
    | .fault _ => []
    | .refused _ => []

/-- The beat answered `ok` at the coming edge, if one is (R23, R134). -/
def answeredNow (s : State) : List Beat :=
  let p := currentPins s
  if p.rst = false ∧ snkValid s = true ∧ p.snkErr = false ∧ p.snkReady = true then (offeredBeat s).toList else []

/-- The beats answered `ok` in the next `k` edges, in order (R54). -/
def answeredBeats : Nat → State → List Beat
  | 0, _ => []
  | k + 1, s =>
    match step s with
    | .next t => answeredNow s ++ answeredBeats k t
    | .fault _ => []
    | .refused _ => []

/-- The fold of R41 over a list of beats (R54 e). -/
def foldBeats (beats : List Beat) (sink : List Byte) : List Byte := beats.foldl (fun l b => takeBeat b l) sink

/-- No reset in the next `k` edges. -/
def resetFree (k : Nat) (s : State) : Prop := ∀ p ∈ s.env.take k, p.rst = false

/-- A final state, when the words `left` of the program have not been accepted (R162). -/
def State.IsFinal (left : List Word) (s : State) : Prop := s.phase = .idle ∧ s.fault = 0#2 ∧ left = []

/-- A state right after a reset: every field of the block is what an edge with `rst = 1` leaves (R25, R150). The content of the
sink and the inputs to come are whatever they are. -/
def AfterReset (s : State) : Prop := ∃ u, s = resetEdge u

/-- The run of `program` that the reset just before `s` began has completed in `t` after `k` edges (R162). A run that no reset
begins is refused: it does not complete (R152, R163 row 1, U12; log 18). -/
def RunCompletes (program : List Word) (k : Nat) (s t : State) : Prop :=
  AfterReset s ∧ resetFree k s ∧ run k s = .next t ∧ ∃ left, program = acceptedWords k s ++ left ∧ t.IsFinal left

/-- Agreement on everything the spec gives a value: the timecode counts only once it was loaded (R14, U8) and the hidden
counters only while an operation is under way (R25, U10). -/
def AgreeOnDefined (s t : State) : Prop :=
  s.tcv = t.tcv ∧ s.phase = t.phase ∧ s.fault = t.fault ∧ s.sink = t.sink ∧ s.env = t.env ∧ s.tick = t.tick ∧
    (s.tcv = true → s.min = t.min ∧ s.sec = t.sec ∧ s.frm = t.frm) ∧
    (busy s = true → s.nrem = t.nrem ∧ s.srem = t.srem ∧ s.bidx = t.bidx ∧ s.adva = t.adva)

/-- Agreement on every output port, whatever `WMIN` is (R20, R21, R23). -/
def SamePorts (s t : State) : Prop :=
  statusWord s = statusWord t ∧ cmdReady s = cmdReady t ∧ snkValid s = snkValid t ∧ snkKind s = snkKind t ∧
    snkData s = snkData t ∧ (∀ wmin, tcMin wmin s = tcMin wmin t) ∧ tcSec s = tcSec t ∧ tcFrm s = tcFrm t ∧
    bcdMin s = bcdMin t ∧ bcdSec s = bcdSec t ∧ bcdFrm s = bcdFrm t

end Sys2Proof.Machine
end

