-- ==== Sys2Proof/Certificates/Slice0/Obligations.lean ====
section
/-! DEFINITION. The statements for the provers, one definition each, in the order of OBLIGATIONS.json. -/

open Sys2Proof Sys2Proof.Machine

/-! ## The command word (30_encoding.md) -/

/-- R61, R62, R64: decoding a command's own word gives the command back, with every operand. -/
def Obligations.DecodeOfEncode : Prop := ∀ i : Instr, decode (encode i) = .instr i

/-- R63, R64: each command has one word, since a word that decodes to a command is that command's encoding. -/
def Obligations.EncodeOfDecode : Prop := ∀ (cw : Word) (i : Instr), decode cw = .instr i → encode i = cw

/-- R63: the rows have the masks and patterns of the map, a word selects a row exactly when it decodes to a command of that
row, no word selects two rows, and a word that selects no row is illegal. -/
def Obligations.WordsSelectTheirRow : Prop :=
  opcodeMap.map (fun r => (r.mnemonic, r.mask, r.pattern)) =
      [("LDT", 0xFF000000#32, 0x10000000#32), ("ADV", 0xFFFFFFFF#32, 0x20000000#32),
        ("ENC", 0xFFFFFFFF#32, 0x30000000#32), ("PREGAP", 0xFFFFFFFF#32, 0x40000000#32),
        ("NULL", 0xF0000000#32, 0x50000000#32)] ∧
    (∀ (cw : Word), ∀ r ∈ opcodeMap, r.selects cw ↔ ∃ i, decode cw = .instr i ∧ rowOf i = r) ∧
    (∀ (cw : Word), ∀ r ∈ opcodeMap, ∀ r' ∈ opcodeMap, r.selects cw → r'.selects cw → r = r') ∧
    (∀ (cw : Word), (∀ r ∈ opcodeMap, ¬r.selects cw) → ∃ why, decode cw = .illegal why)

/-- R64, R65: the illegal words are exactly those R65 lists. -/
def Obligations.IllegalWordsAreThoseListed : Prop :=
  ∀ cw : Word, (∃ why, decode cw = .illegal why) ↔
    (opField cw = 0x0#4 ∨ 6 ≤ (opField cw).toNat ∨
      ((opField cw = 0x2#4 ∨ opField cw = 0x3#4 ∨ opField cw = 0x4#4) ∧ lowField cw ≠ 0#28) ∨
      (opField cw = 0x1#4 ∧ zeroFieldT cw ≠ 0#4))

/-- R65: a word of that list, accepted in IDLE, raises USAGE and has no other effect: FAULT and PHASE change, no other register,
not the sink, and no beat is offered. -/
def Obligations.IllegalWordRaisesUsage : Prop :=
  ∀ (cw : Word) (s : State),
    (opField cw = 0x0#4 ∨ 6 ≤ (opField cw).toNat ∨
      ((opField cw = 0x2#4 ∨ opField cw = 0x3#4 ∨ opField cw = 0x4#4) ∧ lowField cw ≠ 0#28) ∨
      (opField cw = 0x1#4 ∧ zeroFieldT cw ≠ 0#4)) →
    s.phase = .idle → (currentPins s).Offers cw →
    ∃ t, step s = .next t ∧
      t = { s with fault := 1#2, phase := .halt, env := s.env.tail, tick := s.tick + 1 } ∧
      offeredBeat s = none ∧ offeredBeat t = none

/-- Words written out from the fields of R61 decode to their commands (95_test_vectors.md E1 to E17, X1 to X19). -/
def Obligations.SpecWordsDecode : Prop :=
  decode 0x100C2238#32 = .instr (.ldt 12 34 56) ∧ decode 0x10003B4A#32 = .instr (.ldt 0 59 74) ∧
    decode 0x1000C803#32 = .instr (.ldt 0 200 3) ∧ decode 0x20000000#32 = .instr .adv ∧
    decode 0x30000000#32 = .instr .enc ∧ decode 0x40000000#32 = .instr .pregap ∧
    decode 0x50056220#32 = .instr (.null 352800) ∧ decode 0x5FFFFFFF#32 = .instr (.null 268435455) ∧
    decode 0x00000000#32 = .illegal (.opcode 0) ∧ decode 0x11000000#32 = .illegal (.zeroField 1) ∧
    decode 0x20000001#32 = .illegal (.zeroField 2) ∧ decode 0x4FFFFFFF#32 = .illegal (.zeroField 4) ∧
    decode 0x60000000#32 = .illegal (.opcode 6) ∧ decode 0xFFFFFFFF#32 = .illegal (.opcode 15)

/-- R66: the assembler gives words exactly for the lines whose operands are in range; seconds over 59 and frames over 74 are in
range; and a command's line gives that command's one word. -/
def Obligations.AssemblerChecksRanges : Prop :=
  (∀ mm ss ff : Nat, (assemble (.ldt mm ss ff)).isSome ↔ mm ≤ 255 ∧ ss ≤ 255 ∧ ff ≤ 255) ∧
    (∀ count : Nat, (assemble (.null count)).isSome ↔ count ≤ 268435455) ∧
    (∀ mm ss ff : BitVec 8,
      assemble (.ldt mm.toNat ss.toNat ff.toNat) = some [encode (.ldt mm ss ff)]) ∧
    (∀ count : BitVec 28, assemble (.null count.toNat) = some [encode (.null count)]) ∧
    assemble .adv = some [encode .adv] ∧ assemble .enc = some [encode .enc] ∧
    assemble .pregap = some [encode .pregap]

/-- R67: the pseudo-operations stand for the words of their expansions. -/
def Obligations.PseudoOperationsExpand : Prop :=
  (∀ mm ss ff : BitVec 8,
      assemble (.pregapD mm.toNat ss.toNat ff.toNat) = some [encode (.ldt mm ss ff), encode .pregap]) ∧
    assemble .pregapA = some [0x50056220#32] ∧ assemble .pregapA = assemble (.null 352800)

/-! ## The edge (10_state.md R23) and reset -/

/-- R17, R57: at an edge of a ready block on which the host offers a word that decodes to `i`, the step is `exec i`, at the
state whose pins for that edge are consumed. -/
def Obligations.StepRunsTheDecodedCommand : Prop :=
  ∀ (cw : Word) (i : Instr) (s : State),
    s.phase = .idle → (currentPins s).Offers cw → decode cw = .instr i →
    step s = exec i { s with env := s.env.tail, tick := s.tick + 1 }

/-- R23: every edge of every state has a next state, and consumes one edge's pins; past the end of the list the pins are quiet,
which is the model's choice (log 1). -/
def Obligations.EveryEdgeHasANextState : Prop :=
  ∀ s : State, ∃ t, step s = .next t ∧ t.env = s.env.tail ∧ t.tick = s.tick + 1

/-- R23, R57: `cmd_valid` and `cmd_word` have no effect while `cmd_ready = 0`. -/
def Obligations.CommandPinsIgnoredWhileNotReady : Prop :=
  ∀ (s : State) (p q : Pins) (rest : List Pins),
    s.phase ≠ .idle → p.rst = q.rst → p.snkReady = q.snkReady → p.snkErr = q.snkErr →
    step { s with env := p :: rest } = step { s with env := q :: rest }

/-- R23: `snk_ready` and `snk_err` have no effect while `snk_valid = 0`. -/
def Obligations.SinkPinsIgnoredWithoutOffer : Prop :=
  ∀ (s : State) (p q : Pins) (rest : List Pins),
    busy s = false → p.rst = q.rst → p.cmdValid = q.cmdValid → p.cmdWord = q.cmdWord →
    step { s with env := p :: rest } = step { s with env := q :: rest }

/-- R23, R43, R139: a beat the sink does not answer stays on offer for as many edges as that lasts, with the same `snk_kind` and
`snk_data`, and nothing else of the machine changes. -/
def Obligations.UnansweredBeatStaysOnOffer : Prop :=
  ∀ (k : Nat) (s : State), busy s = true → k ≤ s.env.length →
    (∀ p ∈ s.env.take k, p.rst = false ∧ p.snkReady = false ∧ p.snkErr = false) →
    ∃ t, run k s = .next t ∧ t = { s with env := s.env.drop k, tick := s.tick + k } ∧
      snkValid t = true ∧ snkKind t = snkKind s ∧ snkData t = snkData s

/-- R137: a halted block stays as it is while no reset comes, whatever host and sink do; it is not final; and a reset leaves HALT
and clears TCV and FAULT. -/
def Obligations.HaltIsLeftOnlyByReset : Prop :=
  ∀ s : State, s.phase = .halt →
    (∀ k, k ≤ s.env.length → resetFree k s →
      run k s = .next { s with env := s.env.drop k, tick := s.tick + k }) ∧
    (∀ left, ¬s.IsFinal left) ∧
    ((currentPins s).rst = true → ∃ t, step s = .next t ∧ t.phase = .idle ∧ t.fault = 0#2 ∧ t.tcv = false)

/-- R25, R150, R151: an edge with `rst = 1` gives the reset values in every state, accepts no command and answers no beat; SINK
keeps its content, or took the one beat that was withdrawn; no beat is offered afterwards. -/
def Obligations.ResetEdgeGivesResetValues : Prop :=
  ∀ s : State, (currentPins s).rst = true →
    acceptedNow s = [] ∧ answeredNow s = [] ∧
    ∃ t, step s = .next t ∧ t.phase = .idle ∧ t.tcv = false ∧ t.fault = 0#2 ∧ statusWord t = 0x00#8 ∧
      cmdReady t = true ∧ snkValid t = false ∧ offeredBeat t = none ∧
      (t.sink = s.sink ∨ ∃ b, offeredBeat s = some b ∧ t.sink = takeBeat b s.sink)

/-- R25: the state after reset. -/
def Obligations.ResetStateHasTheResetValues : Prop :=
  State.reset.phase = .idle ∧ State.reset.tcv = false ∧ State.reset.fault = 0#2 ∧
    statusWord State.reset = 0x00#8 ∧ cmdReady State.reset = true ∧ snkValid State.reset = false

/-! ## Acceptance of the commands (10_state.md R17) -/

/-- R81, row LDT of R17: on a ready block LDT writes the three registers and TCV and completes at acceptance, with no beat. -/
def Obligations.LdtCompletes : Prop :=
  ∀ (mm ss ff : BitVec 8) (s : State), s.phase = .idle →
    exec (.ldt mm ss ff) s = .next { s with min := mm.toNat, sec := ss, frm := ff, tcv := true }

/-- R82, row ADV of R17: on a ready block with a timecode ADV replaces the triple by its `adv` (R80) and completes at
acceptance. The triple is stated as naturals, so nothing is cut to a width. -/
def Obligations.AdvCompletes : Prop :=
  ∀ s : State, s.phase = .idle → s.tcv = true →
    ∃ t, exec .adv s = .next t ∧ t.tc = adv ⟨s.min, s.sec.toNat, s.frm.toNat⟩ ∧
      t = { s with min := t.min, sec := t.sec, frm := t.frm }

/-- R101, row ENC of R17: on a ready block with a timecode ENC starts one sector without advance. -/
def Obligations.EncCompletes : Prop :=
  ∀ s : State, s.phase = .idle → s.tcv = true →
    exec .enc s =
      .next { s with nrem := 0#28, srem := 1#8, adva := false, bidx := 0#12, phase := .sector }

/-- R110, row PREGAP of R17: on a ready block with a timecode PREGAP starts with a TRUNC beat, 176,400 zeros and 150 sectors to
come. -/
def Obligations.PregapCompletes : Prop :=
  ∀ s : State, s.phase = .idle → s.tcv = true →
    exec .pregap s =
      .next { s with nrem := 176400#28, srem := 150#8, adva := true, bidx := 0#12, phase := .trunc }

/-- R120, row NULL of R17: on a ready block, with or without a timecode, NULL starts with a TRUNC beat and `count` zeros to
come. -/
def Obligations.NullCompletes : Prop :=
  ∀ (count : BitVec 28) (s : State), s.phase = .idle →
    exec (.null count) s =
      .next { s with nrem := count, srem := 0#8, adva := false, bidx := 0#12, phase := .trunc }

/-- R131: a command accepted in IDLE whose word is illegal, or which is ADV, ENC or PREGAP while `TCV = 0`, raises USAGE in place
of its whole effect: no timecode register, counter or TCV changes, the sink is untouched and no beat is offered. -/
def Obligations.UsageReplacesTheEffect : Prop :=
  ∀ (cw : Word) (s : State), s.phase = .idle → (currentPins s).Offers cw →
    ((∃ why, decode cw = .illegal why) ∨
      (s.tcv = false ∧ (decode cw = .instr .adv ∨ decode cw = .instr .enc ∨ decode cw = .instr .pregap))) →
    ∃ t, step s = .next t ∧
      t = { s with fault := 1#2, phase := .halt, env := s.env.tail, tick := s.tick + 1 } ∧ offeredBeat t = none

/-- R57, R157: a command offered while PHASE is not IDLE is not accepted: nothing happens. (That this is so of `exec` itself is the
model's reading, log 13.) -/
def Obligations.CommandNotSeenUnlessReady : Prop :=
  ∀ (i : Instr) (s : State), s.phase ≠ .idle → exec i s = .next s

/-- The frame of the five commands (R13, R17): none touches the sink or the inputs to come; only LDT and ADV may change the
timecode, and ADV leaves TCV; LDT and ADV leave the counters; LDT leaves PHASE and FAULT; ENC, PREGAP and NULL leave TC and
TCV; FAULT is kept or becomes 1. -/
def Obligations.CommandFrame : Prop :=
  ∀ (i : Instr) (s t : State), exec i s = .next t →
    (t.sink = s.sink ∧ t.env = s.env ∧ t.tick = s.tick) ∧
    (t.fault = s.fault ∨ t.fault = 1#2) ∧
    (match i with
      | .ldt _ _ _ =>
        t.phase = s.phase ∧ t.fault = s.fault ∧ t.nrem = s.nrem ∧ t.srem = s.srem ∧ t.bidx = s.bidx ∧ t.adva = s.adva
      | .adv =>
        t.tcv = s.tcv ∧ t.nrem = s.nrem ∧ t.srem = s.srem ∧ t.bidx = s.bidx ∧ t.adva = s.adva ∧
          (t.phase = s.phase ∨ t.phase = .halt)
      | .enc => t.min = s.min ∧ t.sec = s.sec ∧ t.frm = s.frm ∧ t.tcv = s.tcv
      | .pregap => t.min = s.min ∧ t.sec = s.sec ∧ t.frm = s.frm ∧ t.tcv = s.tcv
      | .null _ => t.min = s.min ∧ t.sec = s.sec ∧ t.frm = s.frm ∧ t.tcv = s.tcv ∧ t.fault = s.fault)

/-! ## The beats (10_state.md R17, 20_memory.md R41 to R43) -/

/-- Row TRUNC of R17: the sink is emptied, and zeros follow, or sectors, or the operation is over. -/
def Obligations.TruncBeatOk : Prop :=
  ∀ s : State, s.phase = .trunc →
    (currentPins s).rst = false → (currentPins s).snkErr = false → (currentPins s).snkReady = true →
    offeredBeat s = some .trunc ∧
    step s = .next { s with
      sink := [],
      phase := if 0 < s.nrem.toNat then .zeros else if 0 < s.srem.toNat then .sector else .idle,
      env := s.env.tail, tick := s.tick + 1 }

/-- Row ZEROS of R17: one zero byte is appended and NREM is one less, as a natural; after the last the sectors follow or the
operation is over. -/
def Obligations.ZerosBeatOk : Prop :=
  ∀ s : State, s.phase = .zeros → 0 < s.nrem.toNat →
    (currentPins s).rst = false → (currentPins s).snkErr = false → (currentPins s).snkReady = true →
    offeredBeat s = some (.byte 0x00#8) ∧
    ∃ t, step s = .next t ∧ t.nrem.toNat = s.nrem.toNat - 1 ∧
      t = { s with
        sink := s.sink ++ [0x00#8], nrem := t.nrem,
        phase := if s.nrem.toNat = 1 then (if 0 < s.srem.toNat then .sector else .idle) else .zeros,
        env := s.env.tail, tick := s.tick + 1 }

/-- Row SECTOR of R17, a byte that is not the sector's last: it is appended and BIDX is one more. -/
def Obligations.SectorByteBeatOk : Prop :=
  ∀ s : State, s.phase = .sector → s.bidx.toNat < 2351 →
    (currentPins s).rst = false → (currentPins s).snkErr = false → (currentPins s).snkReady = true →
    offeredBeat s = some (.byte (sectorByte s.bidx.toNat ⟨s.min, s.sec.toNat, s.frm.toNat⟩)) ∧
    ∃ t, step s = .next t ∧ t.bidx.toNat = s.bidx.toNat + 1 ∧
      t = { s with
        sink := s.sink ++ [sectorByte s.bidx.toNat ⟨s.min, s.sec.toNat, s.frm.toNat⟩], bidx := t.bidx,
        env := s.env.tail, tick := s.tick + 1 }

/-- Row SECTOR of R17, the sector's last byte: it is appended, BIDX returns to 0, the timecode advances exactly when ADVA = 1,
SREM is one less, and with the last sector the operation is over. -/
def Obligations.SectorLastBeatOk : Prop :=
  ∀ s : State, s.phase = .sector → s.bidx.toNat = 2351 → 0 < s.srem.toNat →
    (currentPins s).rst = false → (currentPins s).snkErr = false → (currentPins s).snkReady = true →
    offeredBeat s = some (.byte 0x00#8) ∧
    ∃ t, step s = .next t ∧ t.srem.toNat = s.srem.toNat - 1 ∧
      t.tc = (if s.adva = true then adv ⟨s.min, s.sec.toNat, s.frm.toNat⟩ else ⟨s.min, s.sec.toNat, s.frm.toNat⟩) ∧
      t = { s with
        sink := s.sink ++ [0x00#8], bidx := 0#12, srem := t.srem, min := t.min, sec := t.sec, frm := t.frm,
        phase := if s.srem.toNat = 1 then .idle else .sector,
        env := s.env.tail, tick := s.tick + 1 }

/-- R132 with R134 (4): a beat answered `err`, even together with `ready`, raises SINK: FAULT is 3 and PHASE HALT, counters and
TC keep their values, no later beat is offered, and SINK has either taken the failed beat or not. -/
def Obligations.ErrAnswerRaisesSink : Prop :=
  ∀ s : State, busy s = true → (currentPins s).rst = false → (currentPins s).snkErr = true →
    ∃ t l, step s = .next t ∧
      t = { s with fault := 3#2, phase := .halt, sink := l, env := s.env.tail, tick := s.tick + 1 } ∧
      (l = s.sink ∨ ∃ b, offeredBeat s = some b ∧ l = takeBeat b s.sink) ∧ offeredBeat t = none

/-- R41, R44, R54 (d): no edge of any state changes the sink but by the beat on offer, which empties it or appends one byte; with
no beat on offer the sink keeps its content. -/
def Obligations.SinkChangesOnlyByTheOfferedBeat : Prop :=
  ∀ s t : State, step s = .next t →
    t.sink = s.sink ∨
      (offeredBeat s = some .trunc ∧ t.sink = []) ∨
      (∃ v, offeredBeat s = some (.byte v) ∧ t.sink = s.sink ++ [v])

/-- R54 (e): in a run without reset that did not end in a SINK fault, the sink is the fold of the beats answered `ok`, in their
order, over what it held. -/
def Obligations.SinkIsTheFoldOfAnsweredBeats : Prop :=
  ∀ (k : Nat) (s t : State), resetFree k s → run k s = .next t → t.fault ≠ 3#2 →
    t.sink = foldBeats (answeredBeats k s) s.sink

/-! ## The functions -/

/-- R80: the carry chain, on naturals and in sequence; the nested reading differs from it exactly when the second is over 59 and
the frame does not carry, with the two results R80 names. -/
def Obligations.AdvIsTheSequentialCarryChain : Prop :=
  (∀ m s f : Nat, adv ⟨m, s, f⟩ =
    (let f1 := f + 1
     let (f2, s1) := if f1 > 74 then (0, s + 1) else (f1, s)
     let (s2, m1) := if s1 > 59 then (0, m + 1) else (s1, m)
     ⟨m1, s2, f2⟩)) ∧
    (∀ t : Tc, advReading true t ≠ adv t ↔ t.sec > 59 ∧ t.frm + 1 ≤ 74) ∧
    (∀ m s f : Nat, s > 59 → f + 1 ≤ 74 →
      adv ⟨m, s, f⟩ = ⟨m + 1, 0, f + 1⟩ ∧ advReading true ⟨m, s, f⟩ = ⟨m, s, f + 1⟩)

/-- Laws 2 to 6 and 8 of R83, which the spec marks as derived from R80. -/
def Obligations.AdvLaws : Prop :=
  ∀ m s f : Nat,
    (f ≤ 73 → s ≤ 59 → adv ⟨m, s, f⟩ = ⟨m, s, f + 1⟩) ∧
    (f ≥ 74 → s ≤ 58 → adv ⟨m, s, f⟩ = ⟨m, s + 1, 0⟩) ∧
    (f ≥ 74 → s ≥ 59 → adv ⟨m, s, f⟩ = ⟨m + 1, 0, 0⟩) ∧
    (f ≤ 73 → s ≥ 60 → adv ⟨m, s, f⟩ = ⟨m + 1, 0, f + 1⟩) ∧
    (adv ⟨m, s, f⟩).Valid ∧
    ((adv ⟨m, s, f⟩).min = m ∨ (adv ⟨m, s, f⟩).min = m + 1) ∧
    adv ⟨m, s, f⟩ ≠ ⟨m, s, f⟩

/-- Law 7 of R83, which the spec marks as derived: on valid timecodes `adv` counts frames, 75 advances are a second and 4500 a
minute. -/
def Obligations.AdvCountsFrames : Prop :=
  ∀ t : Tc, t.Valid →
    (∀ k, frameCount (advPow k t) = frameCount t + k ∧ (advPow k t).Valid) ∧
    (t.sec ≤ 58 → advPow 75 t = ⟨t.min, t.sec + 1, t.frm⟩) ∧
    (t.sec = 59 → advPow 75 t = ⟨t.min + 1, 0, t.frm⟩) ∧
    advPow 4500 t = ⟨t.min + 1, t.sec, t.frm⟩

/-- R113 (3), (5), which the spec marks as derived: the 150 advances of a pregap are two seconds for a valid origin, and leave
frame 74 for an origin with a frame over 74. -/
def Obligations.PregapAdvancesTwoSeconds : Prop :=
  ∀ t : Tc,
    (t.Valid → t.sec ≤ 57 → advPow 150 t = ⟨t.min, t.sec + 2, t.frm⟩) ∧
    (t.Valid → 58 ≤ t.sec → advPow 150 t = ⟨t.min + 1, t.sec - 58, t.frm⟩) ∧
    (t.frm > 74 → (adv t).frm = 0 ∧ (advPow 150 t).frm = 74)

/-- R90, R91: the packed byte is the low 8 bits of the formula (the modulo is the spec's decision D6, log 11); its high nibble is the tens count modulo 16 and its low nibble
the ones digit; it repeats with period 160; up to 159 nothing is cut and the high nibble is the tens count; up to 99 both
nibbles are digits; from 160 on the formula does not fit a byte.
The closed form by nibbles is R91's, which the spec marks as derived from R90. -/
def Obligations.PackedByteNibbles : Prop :=
  ∀ d : Nat,
    bcdPack d = d / 10 * 16 + d % 10 ∧ (bcd8 d).toNat = bcdPack d % 256 ∧
    bcd8 d = BitVec.ofNat 4 (d / 10 % 16) ++ BitVec.ofNat 4 (d % 10) ∧
    bcd8 (d + 160) = bcd8 d ∧
    (d ≤ 159 → (bcd8 d).toNat = bcdPack d ∧ ((bcd8 d).extractLsb' 4 4).toNat = d / 10) ∧
    (d ≤ 99 → (bcd8 d).toNat ≤ 0x99 ∧ d / 10 ≤ 9 ∧ d % 10 ≤ 9) ∧
    (100 ≤ d → d ≤ 159 → 0xA0 ≤ (bcd8 d).toNat ∧ (bcd8 d).toNat ≤ 0xF9 ∧ 10 ≤ d / 10 ∧ d / 10 ≤ 15) ∧
    (160 ≤ d → 256 ≤ bcdPack d)

/-- Laws 1, 2, 4 of R93 and the round trip of R92, which the spec marks as derived. -/
def Obligations.BcdLaws : Prop :=
  (∀ d e : Nat, d < e → bcdPack d < bcdPack e) ∧
    (∀ d : Nat, bcdPack d = d + 6 * (d / 10)) ∧
    (∀ d e : Nat, d ≤ 159 → e ≤ 159 → bcd8 d = bcd8 e → d = e) ∧
    (∀ d : Nat, bcd8 d = 0x00#8 ↔ 160 ∣ d) ∧
    (∀ d : Nat, d ≤ 159 → bcdUnpack (bcd8 d) = d) ∧ bcdUnpack (bcd8 160) ≠ 160

/-- R45: the layout of a sector, as one list. -/
def Obligations.SectorLayout : Prop :=
  ∀ m s f : Nat,
    (sector ⟨m, s, f⟩).length = 2352 ∧
    sector ⟨m, s, f⟩ =
      [0x00#8] ++ List.replicate 10 0xFF#8 ++ [0x00#8] ++ [bcd8 m, bcd8 s, bcd8 f] ++ [0x01#8] ++
        List.replicate 2336 0x00#8

/-- R103, which the spec marks as derived: two sectors are equal exactly when their packed header bytes are, and a sector has 11
non-zero bytes and one more for each non-zero header byte. -/
def Obligations.SectorsDifferByHeader : Prop :=
  (∀ t u : Tc, sector t = sector u ↔ bcd8 t.min = bcd8 u.min ∧ bcd8 t.sec = bcd8 u.sec ∧ bcd8 t.frm = bcd8 u.frm) ∧
    (∀ t : Tc, (sector t).countP (fun b => b != 0x00#8) =
      11 + [bcd8 t.min, bcd8 t.sec, bcd8 t.frm].countP (fun b => b != 0x00#8))

/-- R46: the layout of a pregap region. -/
def Obligations.PregapRegionLayout : Prop :=
  ∀ t : Tc,
    (pregapRegion t).length = 529200 ∧
    (∀ n, n < 176400 → (pregapRegion t)[n]? = some 0x00#8) ∧
    (∀ k i, k < 150 → i < 2352 → (pregapRegion t)[176400 + 2352 * k + i]? = some (sectorByte i (advPow k t)))

/-! ## Whole operations (R101, R110, R120) -/

/-- R101: ENC offered to a ready block with a timecode, and 2352 beats all answered `ok` however late and whatever the host
drives meanwhile: the sector of the current timecode is appended, PHASE is IDLE again, and TC, TCV and FAULT are unchanged. -/
def Obligations.EncAppendsOneSector : Prop :=
  ∀ (s : State) (p : Pins) (ps rest : List Pins),
    s.phase = .idle → s.tcv = true → p.Offers 0x30000000#32 → answersOk ps 2352 = true →
    s.env = p :: ps ++ rest →
    run (1 + ps.length) s = .next { s with
      sink := s.sink ++ sector ⟨s.min, s.sec.toNat, s.frm.toNat⟩,
      nrem := 0#28, srem := 0#8, bidx := 0#12, adva := false,
      env := rest, tick := s.tick + (1 + ps.length) }

/-- R120: NULL offered to a ready block, with or without a timecode, and `1 + count` beats all answered `ok`: the sink holds
`count` zero bytes whatever it held before, PHASE is IDLE again, and TC, TCV and FAULT are unchanged. -/
def Obligations.NullLeavesZeros : Prop :=
  ∀ (count : BitVec 28) (s : State) (p : Pins) (ps rest : List Pins),
    s.phase = .idle → p.Offers (0x50000000#32 ||| count.setWidth 32) → answersOk ps (1 + count.toNat) = true →
    s.env = p :: ps ++ rest →
    run (1 + ps.length) s = .next { s with
      sink := List.replicate count.toNat 0x00#8,
      nrem := 0#28, srem := 0#8, bidx := 0#12, adva := false,
      env := rest, tick := s.tick + (1 + ps.length) }

/-- R110, R112, R114: PREGAP offered to a ready block with a timecode, and 529,201 beats all answered `ok`: the sink holds the
pregap region of the origin whatever it held before, TC is the origin advanced 150 times, and nothing is left pending. -/
def Obligations.PregapEmitsItsRegion : Prop :=
  ∀ (s : State) (p : Pins) (ps rest : List Pins),
    s.phase = .idle → s.tcv = true → p.Offers 0x40000000#32 → answersOk ps 529201 = true →
    s.env = p :: ps ++ rest →
    ∃ t, run (1 + ps.length) s = .next t ∧
      t.tc = advPow 150 ⟨s.min, s.sec.toNat, s.frm.toNat⟩ ∧
      t = { s with
        min := t.min, sec := t.sec, frm := t.frm,
        sink := pregapRegion ⟨s.min, s.sec.toNat, s.frm.toNat⟩,
        nrem := 0#28, srem := 0#8, bidx := 0#12, adva := true,
        env := rest, tick := s.tick + (1 + ps.length) }

/-- R115, which the spec marks as derived: the state of a PREGAP after the TRUNC beat and `n` BYTE beats were answered `ok`, in
the zero run and in sector `k` at byte `i`. -/
def Obligations.PregapStateAtEachBeat : Prop :=
  ∀ (s : State) (p : Pins) (ps rest : List Pins) (n : Nat),
    s.phase = .idle → s.tcv = true → p.Offers 0x40000000#32 → answersOk ps (1 + n) = true →
    s.env = p :: ps ++ rest →
    (n < 176400 → ∃ t, run (1 + ps.length) s = .next t ∧
      t.phase = .zeros ∧ t.nrem.toNat = 176400 - n ∧ t.srem.toNat = 150 ∧ t.bidx.toNat = 0 ∧ t.tc = s.tc ∧
      t.sink = List.replicate n 0x00#8) ∧
    (∀ k i, k < 150 → i < 2352 → n = 176400 + 2352 * k + i → ∃ t, run (1 + ps.length) s = .next t ∧
      t.phase = .sector ∧ t.nrem.toNat = 0 ∧ t.srem.toNat = 150 - k ∧ t.bidx.toNat = i ∧ t.tc = advPow k s.tc ∧
      t.sink = List.replicate 176400 0x00#8 ++ sectorsFrom k s.tc ++ (sector (advPow k s.tc)).take i)

/-! ## Whole-machine rules -/

/-- The invariant of the control state is kept by every edge: resets, commands, illegal words, answers and faults. -/
def Obligations.EveryStepKeepsTheInvariant : Prop :=
  ∀ s t : State, s.Inv → step s = .next t → t.Inv

/-- The invariant holds after reset. -/
def Obligations.ResetMeetsTheInvariant : Prop := State.reset.Inv

/-- R20: in every state that meets the invariant the status word is one of the eight legal values; its fields are those of R20. -/
def Obligations.StatusWordIsLegal : Prop :=
  ∀ s : State, s.Inv →
    statusWord s ∈ [0x00#8, 0x04#8, 0x01#8, 0x05#8, 0x12#8, 0x16#8, 0x32#8, 0x36#8] ∧
    (statusWord s).getLsbD 0 = busy s ∧ ((statusWord s).getLsbD 1 = true ↔ s.phase = .halt) ∧
    (statusWord s).getLsbD 2 = s.tcv ∧ (statusWord s).getLsbD 3 = false ∧
    (statusWord s).extractLsb' 4 2 = s.fault ∧ (statusWord s).extractLsb' 6 2 = 0#2

/-- R19: FAULT is written only by a fault and by reset, a fault leaves HALT and the code 1 or 3, and once non-zero FAULT does not
change until reset. -/
def Obligations.FaultIsWrittenOnlyByFaultsAndReset : Prop :=
  ∀ s t : State, step s = .next t → (currentPins s).rst = false →
    (t.fault ≠ s.fault → t.phase = .halt ∧ (t.fault = 1#2 ∨ t.fault = 3#2)) ∧
    (s.Inv → s.fault ≠ 0#2 → t.fault = s.fault)

/-- R14: LDT sets TCV, reset clears it, and nothing else changes it. -/
def Obligations.TcvIsSetOnlyByLdt : Prop :=
  ∀ s t : State, step s = .next t → t.tcv ≠ s.tcv →
    ((currentPins s).rst = true ∧ t.tcv = false) ∨
    (s.phase = .idle ∧ t.tcv = true ∧ ∃ cw mm ss ff, (currentPins s).Offers cw ∧ decode cw = .instr (.ldt mm ss ff))

/-- R13: without a reset the timecode registers change only at an accepted LDT, at an accepted ADV, and, in an operation with
ADVA = 1, at a sector's last byte answered `ok`. -/
def Obligations.TimecodeIsWrittenOnlyBy : Prop :=
  ∀ s t : State, step s = .next t → (currentPins s).rst = false → t.tc ≠ s.tc →
    (s.phase = .idle ∧ ∃ cw, (currentPins s).Offers cw ∧
      ((∃ mm ss ff, decode cw = .instr (.ldt mm ss ff)) ∨ (decode cw = .instr .adv ∧ s.tcv = true))) ∨
    (s.phase = .sector ∧ s.adva = true ∧ 2351 ≤ s.bidx.toNat ∧ answeredNow s ≠ [] ∧ t.tc = adv s.tc)

/-- R15, which the spec marks as derived: without a reset MIN never decreases but by an accepted LDT, and an edge that advances
the timecode leaves second at most 59 and frame at most 74. -/
def Obligations.MinuteNeverDecreases : Prop :=
  ∀ s t : State, step s = .next t → (currentPins s).rst = false →
    (∀ cw mm ss ff, s.phase = .idle → (currentPins s).Offers cw → decode cw ≠ .instr (.ldt mm ss ff)) →
    s.min ≤ t.min ∧ (t.tc ≠ s.tc → t.tc.Valid)

/-- R165, which the spec marks as derived: a beat answered `ok` takes exactly one from the beats left, and the operation is over
exactly when none is left. -/
def Obligations.AnsweredBeatTakesOneFromTheMeasure : Prop :=
  ∀ s t : State, s.Inv → busy s = true →
    (currentPins s).rst = false → (currentPins s).snkErr = false → (currentPins s).snkReady = true →
    step s = .next t → beatsLeft t + 1 = beatsLeft s ∧ (busy t = true ↔ 0 < beatsLeft t)

/-- R165: when the sink answers every beat `ok`, however late, the operation under way ends in IDLE after exactly the beats the
measure counts, without a fault. -/
def Obligations.OperationsTerminate : Prop :=
  ∀ (s : State) (ps rest : List Pins), s.Inv → busy s = true → answersOk ps (beatsLeft s) = true →
    s.env = ps ++ rest →
    ∃ t, run ps.length s = .next t ∧ t.phase = .idle ∧ t.fault = 0#2 ∧ t.env = rest

/-- R162: in a completed run every word of the program was accepted; a timecode is loaded exactly when some word of the program
is an LDT; the status is 0x04, or 0x00 when no timecode was loaded; no beat is on offer; and the sink is the fold of the beats
answered `ok`. -/
def Obligations.CompletedRunIsFinal : Prop :=
  ∀ (program : List Word) (k : Nat) (s t : State), RunCompletes program k s t →
    acceptedWords k s = program ∧
    (t.tcv = true ↔ ∃ cw ∈ program, ∃ mm ss ff, decode cw = .instr (.ldt mm ss ff)) ∧
    statusWord t = (if t.tcv = true then 0x04#8 else 0x00#8) ∧ offeredBeat t = none ∧
    t.sink = foldBeats (answeredBeats k s) s.sink

/-- R21: the six observation outputs, once a timecode was loaded, for every `WMIN` that holds the minute. -/
def Obligations.ObservationOutputs : Prop :=
  ∀ (wmin : Nat) (s : State), s.tcv = true → s.min < 2 ^ wmin →
    (tcMin wmin s).toNat = s.min ∧ tcSec s = s.sec ∧ tcFrm s = s.frm ∧
    bcdMin s = bcd8 s.min ∧ bcdSec s = bcd8 s.sec.toNat ∧ bcdFrm s = bcd8 s.frm.toNat

/-- R23: the channel outputs: `cmd_ready` exactly in IDLE, `snk_valid` exactly in the busy phases, `snk_kind` and `snk_data` by
the beat on offer. -/
def Obligations.ChannelOutputs : Prop :=
  ∀ s : State,
    (cmdReady s = true ↔ s.phase = .idle) ∧
    (snkValid s = true ↔ s.phase = .trunc ∨ s.phase = .zeros ∨ s.phase = .sector) ∧
    (s.phase = .trunc → snkKind s = 1#1 ∧ snkData s = 0x00#8) ∧
    (s.phase = .zeros → snkKind s = 0#1 ∧ snkData s = 0x00#8) ∧
    (s.phase = .sector → snkKind s = 0#1 ∧ snkData s = sectorByte s.bidx.toNat s.tc)

/-- U8, U10: two states that agree on everything the spec gives a value, whatever their unloaded timecodes and idle counters are,
stay so at every edge and show the same outputs: no unspecified reset value is ever observed. -/
def Obligations.UnspecifiedValuesAreNeverObserved : Prop :=
  ∀ s t : State, s.Inv → t.Inv → AgreeOnDefined s t →
    SamePorts s t ∧ ∀ s' t', step s = .next s' → step t = .next t' → AgreeOnDefined s' t'

/-- R162, R163 row 1: a run begins with a reset. Every edge with `rst = 1` leads to a state that can begin one, and so does
`State.reset` with any sink and any inputs to come; a completed run began in IDLE with no timecode and no fault; the empty
program completes at once, with the sink untouched; and a run that has reached HALT, or a beat on offer, or has words left, has
not completed. -/
def Obligations.RunsBeginWithAReset : Prop :=
  (∀ s : State, (currentPins s).rst = true → ∃ u, step s = .next u ∧ AfterReset u) ∧
  (∀ (sink : List Byte) (env : List Pins), AfterReset { State.reset with sink := sink, env := env }) ∧
  (∀ (program : List Word) (k : Nat) (s t : State), RunCompletes program k s t →
    s.phase = .idle ∧ s.tcv = false ∧ s.fault = 0#2) ∧
  (∀ s : State, AfterReset s → RunCompletes [] 0 s s) ∧
  (∀ (program : List Word) (k : Nat) (s t : State),
    (t.phase = .halt ∨ busy t = true ∨ acceptedWords k s ≠ program) → ¬RunCompletes program k s t)
end

