-- ==== Sys2Proof/Laws/Decode.lean ====
section
/-! SUPPORT. The command word's fields as numbers (30_encoding.md R61), and what `encodeLow` puts where. -/

namespace Sys2Proof

variable (cw : Word)

theorem toNat_opField : (opField cw).toNat = cw.toNat / 2 ^ 28 := by
  have := cw.isLt
  simp only [opField, BitVec.extractLsb'_toNat, Nat.shiftRight_eq_div_pow]
  omega

theorem toNat_zeroFieldT : (zeroFieldT cw).toNat = cw.toNat / 2 ^ 24 % 16 := by
  simp [zeroFieldT, BitVec.extractLsb'_toNat, Nat.shiftRight_eq_div_pow]

theorem toNat_lowField : (lowField cw).toNat = cw.toNat % 2 ^ 28 := by
  simp [lowField, BitVec.extractLsb'_toNat]

theorem toNat_mmField : (mmField cw).toNat = cw.toNat / 2 ^ 16 % 256 := by
  simp [mmField, BitVec.extractLsb'_toNat, Nat.shiftRight_eq_div_pow]

theorem toNat_ssField : (ssField cw).toNat = cw.toNat / 2 ^ 8 % 256 := by
  simp [ssField, BitVec.extractLsb'_toNat, Nat.shiftRight_eq_div_pow]

theorem toNat_ffField : (ffField cw).toNat = cw.toNat % 256 := by
  simp [ffField, BitVec.extractLsb'_toNat]

/-- Two fields side by side, as a number. -/
theorem toNat_append_eq {m n : Nat} (x : BitVec m) (y : BitVec n) : (x ++ y).toNat = x.toNat * 2 ^ n + y.toNat := by
  rw [BitVec.toNat_append, ← Nat.shiftLeft_add_eq_or_of_lt y.isLt, Nat.shiftLeft_eq]

theorem toNat_encodeLow (op : BitVec 4) (low : BitVec 28) :
    (encodeLow op low).toNat = op.toNat * 2 ^ 28 + low.toNat := toNat_append_eq op low

theorem toNat_timecodeOperand (mm ss ff : BitVec 8) :
    (0#4 ++ mm ++ ss ++ ff : BitVec 28).toNat = mm.toNat * 2 ^ 16 + ss.toNat * 2 ^ 8 + ff.toNat := by
  have h : (0#4 ++ mm ++ ss ++ ff).toNat = mm.toNat * 2 ^ 16 + ss.toNat * 2 ^ 8 + ff.toNat := by
    simp only [toNat_append_eq, BitVec.toNat_ofNat]
    omega
  exact h

@[simp] theorem opField_encodeLow (op : BitVec 4) (low : BitVec 28) : opField (encodeLow op low) = op := by
  apply BitVec.eq_of_toNat_eq
  rw [toNat_opField, toNat_encodeLow]
  have := low.isLt
  omega

@[simp] theorem lowField_encodeLow (op : BitVec 4) (low : BitVec 28) : lowField (encodeLow op low) = low := by
  apply BitVec.eq_of_toNat_eq
  rw [toNat_lowField, toNat_encodeLow]
  have := low.isLt
  omega

/-- A word is its opcode over its low 28 bits. -/
theorem encodeLow_fields : encodeLow (opField cw) (lowField cw) = cw := by
  apply BitVec.eq_of_toNat_eq
  rw [toNat_encodeLow, toNat_opField, toNat_lowField]
  omega

/-- The fields of format T lie where R61 puts them. -/
theorem fields_of_timecodeOperand (op : BitVec 4) (mm ss ff : BitVec 8) :
    zeroFieldT (encodeLow op (0#4 ++ mm ++ ss ++ ff)) = 0#4 ∧ mmField (encodeLow op (0#4 ++ mm ++ ss ++ ff)) = mm ∧
      ssField (encodeLow op (0#4 ++ mm ++ ss ++ ff)) = ss ∧ ffField (encodeLow op (0#4 ++ mm ++ ss ++ ff)) = ff := by
  have := mm.isLt
  have := ss.isLt
  have := ff.isLt
  refine ⟨?_, ?_, ?_, ?_⟩ <;> apply BitVec.eq_of_toNat_eq <;>
    simp only [toNat_zeroFieldT, toNat_mmField, toNat_ssField, toNat_ffField, toNat_encodeLow,
      toNat_timecodeOperand, BitVec.toNat_ofNat] <;>
    omega

/-- With the zero field 0, the low 28 bits of a format T word are its three operands. -/
theorem lowField_of_zeroFieldT (h : zeroFieldT cw = 0#4) :
    lowField cw = 0#4 ++ mmField cw ++ ssField cw ++ ffField cw := by
  apply BitVec.eq_of_toNat_eq
  have h' := congrArg BitVec.toNat h
  rw [toNat_zeroFieldT] at h'
  rw [toNat_lowField, toNat_timecodeOperand, toNat_mmField, toNat_ssField, toNat_ffField]
  simp only [BitVec.toNat_ofNat] at h'
  omega

end Sys2Proof
end

