-- ==== Sys2Proof/Laws/State.lean ====
section
/-! SUPPORT. What each named update of the state does to each field, so that no later proof unfolds a record update. -/

namespace Sys2Proof.Machine

variable (s : State)

@[simp] theorem setTc_min (u : Tc) : (setTc u s).min = u.min := rfl
@[simp] theorem setTc_sec (u : Tc) : (setTc u s).sec = componentBits u.sec := rfl
@[simp] theorem setTc_frm (u : Tc) : (setTc u s).frm = componentBits u.frm := rfl
@[simp] theorem setTc_tcv (u : Tc) : (setTc u s).tcv = s.tcv := rfl
@[simp] theorem setTc_phase (u : Tc) : (setTc u s).phase = s.phase := rfl
@[simp] theorem setTc_fault (u : Tc) : (setTc u s).fault = s.fault := rfl
@[simp] theorem setTc_nrem (u : Tc) : (setTc u s).nrem = s.nrem := rfl
@[simp] theorem setTc_srem (u : Tc) : (setTc u s).srem = s.srem := rfl
@[simp] theorem setTc_bidx (u : Tc) : (setTc u s).bidx = s.bidx := rfl
@[simp] theorem setTc_adva (u : Tc) : (setTc u s).adva = s.adva := rfl
@[simp] theorem setTc_sink (u : Tc) : (setTc u s).sink = s.sink := rfl
@[simp] theorem setTc_env (u : Tc) : (setTc u s).env = s.env := rfl
@[simp] theorem setTc_tick (u : Tc) : (setTc u s).tick = s.tick := rfl

@[simp] theorem raiseFault_min (c : BitVec 2) : (raiseFault c s).min = s.min := rfl
@[simp] theorem raiseFault_sec (c : BitVec 2) : (raiseFault c s).sec = s.sec := rfl
@[simp] theorem raiseFault_frm (c : BitVec 2) : (raiseFault c s).frm = s.frm := rfl
@[simp] theorem raiseFault_tcv (c : BitVec 2) : (raiseFault c s).tcv = s.tcv := rfl
@[simp] theorem raiseFault_phase (c : BitVec 2) : (raiseFault c s).phase = .halt := rfl
@[simp] theorem raiseFault_fault (c : BitVec 2) : (raiseFault c s).fault = c := rfl
@[simp] theorem raiseFault_nrem (c : BitVec 2) : (raiseFault c s).nrem = s.nrem := rfl
@[simp] theorem raiseFault_srem (c : BitVec 2) : (raiseFault c s).srem = s.srem := rfl
@[simp] theorem raiseFault_bidx (c : BitVec 2) : (raiseFault c s).bidx = s.bidx := rfl
@[simp] theorem raiseFault_adva (c : BitVec 2) : (raiseFault c s).adva = s.adva := rfl
@[simp] theorem raiseFault_sink (c : BitVec 2) : (raiseFault c s).sink = s.sink := rfl
@[simp] theorem raiseFault_env (c : BitVec 2) : (raiseFault c s).env = s.env := rfl
@[simp] theorem raiseFault_tick (c : BitVec 2) : (raiseFault c s).tick = s.tick := rfl

@[simp] theorem startOperation_min (n : BitVec 28) (r : BitVec 8) (a : Bool) (p : Phase) : (startOperation n r a p s).min = s.min := rfl
@[simp] theorem startOperation_sec (n : BitVec 28) (r : BitVec 8) (a : Bool) (p : Phase) : (startOperation n r a p s).sec = s.sec := rfl
@[simp] theorem startOperation_frm (n : BitVec 28) (r : BitVec 8) (a : Bool) (p : Phase) : (startOperation n r a p s).frm = s.frm := rfl
@[simp] theorem startOperation_tcv (n : BitVec 28) (r : BitVec 8) (a : Bool) (p : Phase) : (startOperation n r a p s).tcv = s.tcv := rfl
@[simp] theorem startOperation_phase (n : BitVec 28) (r : BitVec 8) (a : Bool) (p : Phase) : (startOperation n r a p s).phase = p := rfl
@[simp] theorem startOperation_fault (n : BitVec 28) (r : BitVec 8) (a : Bool) (p : Phase) : (startOperation n r a p s).fault = s.fault := rfl
@[simp] theorem startOperation_nrem (n : BitVec 28) (r : BitVec 8) (a : Bool) (p : Phase) : (startOperation n r a p s).nrem = n := rfl
@[simp] theorem startOperation_srem (n : BitVec 28) (r : BitVec 8) (a : Bool) (p : Phase) : (startOperation n r a p s).srem = r := rfl
@[simp] theorem startOperation_bidx (n : BitVec 28) (r : BitVec 8) (a : Bool) (p : Phase) : (startOperation n r a p s).bidx = 0#12 := rfl
@[simp] theorem startOperation_adva (n : BitVec 28) (r : BitVec 8) (a : Bool) (p : Phase) : (startOperation n r a p s).adva = a := rfl
@[simp] theorem startOperation_sink (n : BitVec 28) (r : BitVec 8) (a : Bool) (p : Phase) : (startOperation n r a p s).sink = s.sink := rfl
@[simp] theorem startOperation_env (n : BitVec 28) (r : BitVec 8) (a : Bool) (p : Phase) : (startOperation n r a p s).env = s.env := rfl
@[simp] theorem startOperation_tick (n : BitVec 28) (r : BitVec 8) (a : Bool) (p : Phase) : (startOperation n r a p s).tick = s.tick := rfl

@[simp] theorem nextEdge_min : (nextEdge s).min = s.min := rfl
@[simp] theorem nextEdge_sec : (nextEdge s).sec = s.sec := rfl
@[simp] theorem nextEdge_frm : (nextEdge s).frm = s.frm := rfl
@[simp] theorem nextEdge_tcv : (nextEdge s).tcv = s.tcv := rfl
@[simp] theorem nextEdge_phase : (nextEdge s).phase = s.phase := rfl
@[simp] theorem nextEdge_fault : (nextEdge s).fault = s.fault := rfl
@[simp] theorem nextEdge_nrem : (nextEdge s).nrem = s.nrem := rfl
@[simp] theorem nextEdge_srem : (nextEdge s).srem = s.srem := rfl
@[simp] theorem nextEdge_bidx : (nextEdge s).bidx = s.bidx := rfl
@[simp] theorem nextEdge_adva : (nextEdge s).adva = s.adva := rfl
@[simp] theorem nextEdge_sink : (nextEdge s).sink = s.sink := rfl
@[simp] theorem nextEdge_env : (nextEdge s).env = s.env.tail := rfl
@[simp] theorem nextEdge_tick : (nextEdge s).tick = s.tick + 1 := rfl

@[simp] theorem resetEdge_min : (resetEdge s).min = Config.unspecMin s.tick := rfl
@[simp] theorem resetEdge_sec : (resetEdge s).sec = Config.unspecSec s.tick := rfl
@[simp] theorem resetEdge_frm : (resetEdge s).frm = Config.unspecFrm s.tick := rfl
@[simp] theorem resetEdge_tcv : (resetEdge s).tcv = false := rfl
@[simp] theorem resetEdge_phase : (resetEdge s).phase = .idle := rfl
@[simp] theorem resetEdge_fault : (resetEdge s).fault = 0#2 := rfl
@[simp] theorem resetEdge_nrem : (resetEdge s).nrem = Config.unspecNrem s.tick := rfl
@[simp] theorem resetEdge_srem : (resetEdge s).srem = Config.unspecSrem s.tick := rfl
@[simp] theorem resetEdge_bidx : (resetEdge s).bidx = Config.unspecBidx s.tick := rfl
@[simp] theorem resetEdge_adva : (resetEdge s).adva = Config.unspecAdva s.tick := rfl
@[simp] theorem resetEdge_sink : (resetEdge s).sink = if Config.withdrawnBeatTaken s.tick = true then sinkAfterBeat s else s.sink := rfl
@[simp] theorem resetEdge_env : (resetEdge s).env = s.env := rfl
@[simp] theorem resetEdge_tick : (resetEdge s).tick = s.tick := rfl

@[simp] theorem beatErr_min : (beatErr s).min = s.min := rfl
@[simp] theorem beatErr_sec : (beatErr s).sec = s.sec := rfl
@[simp] theorem beatErr_frm : (beatErr s).frm = s.frm := rfl
@[simp] theorem beatErr_tcv : (beatErr s).tcv = s.tcv := rfl
@[simp] theorem beatErr_phase : (beatErr s).phase = .halt := rfl
@[simp] theorem beatErr_fault : (beatErr s).fault = sinkCode := rfl
@[simp] theorem beatErr_nrem : (beatErr s).nrem = s.nrem := rfl
@[simp] theorem beatErr_srem : (beatErr s).srem = s.srem := rfl
@[simp] theorem beatErr_bidx : (beatErr s).bidx = s.bidx := rfl
@[simp] theorem beatErr_adva : (beatErr s).adva = s.adva := rfl
@[simp] theorem beatErr_sink : (beatErr s).sink = if Config.failedBeatTaken s.tick = true then sinkAfterBeat s else s.sink := rfl
@[simp] theorem beatErr_env : (beatErr s).env = s.env := rfl
@[simp] theorem beatErr_tick : (beatErr s).tick = s.tick := rfl

@[simp] theorem tc_min : s.tc.min = s.min := rfl
@[simp] theorem tc_sec : s.tc.sec = s.sec.toNat := rfl
@[simp] theorem tc_frm : s.tc.frm = s.frm.toNat := rfl

/-- Writing the triple the registers already hold changes nothing. -/
theorem setTc_tc : setTc s.tc s = s := by simp [setTc, componentBits, State.tc]

/-- Only the last of two writes of the timecode counts. -/
@[simp] theorem setTc_setTc (u v : Tc) : setTc u (setTc v s) = setTc u s := rfl

end Sys2Proof.Machine
end

