-- ==== Sys2Proof/Laws/Ops.lean ====
section
/-! SUPPORT. For each shared operation of the commands and beats, once, everything it can do. -/

namespace Sys2Proof.Machine

variable (s a : State)

/-- A command offered to a ready block is accepted (R23). -/
theorem whenReady_idle (h : s.phase = .idle) : whenReady s a = .next a := by
  simp [whenReady, cmdReady, h]

/-- A command offered to a block that is not ready is not seen (R57). -/
theorem whenReady_not_idle (h : s.phase ≠ .idle) : whenReady s a = .next s := by
  simp [whenReady, cmdReady, h]

/-- `whenReady` never stops: it answers the accepted state or the state itself. -/
theorem whenReady_cases {t : State} (h : whenReady s a = .next t) :
    (s.phase = .idle ∧ t = a) ∨ (s.phase ≠ .idle ∧ t = s) := by
  by_cases hi : s.phase = .idle
  · rw [whenReady_idle s a hi] at h
    cases h
    exact .inl ⟨hi, rfl⟩
  · rw [whenReady_not_idle s a hi] at h
    cases h
    exact .inr ⟨hi, rfl⟩

/-- With a timecode loaded the effect happens (R14). -/
theorem needTimecode_loaded (h : s.tcv = true) : needTimecode s a = a := by simp [needTimecode, h]

/-- Without a timecode the command raises USAGE instead (R131). -/
theorem needTimecode_unloaded (h : s.tcv = false) : needTimecode s a = raiseFault usageCode s := by
  simp [needTimecode, h]

/-- A busy block offers a beat and a block that is not busy offers none (R54 d). -/
theorem offeredBeat_isSome : (offeredBeat s).isSome = busy s := by
  unfold offeredBeat busy
  cases s.phase <;> rfl

theorem busy_false_of_idle (h : s.phase = .idle) : busy s = false := by simp [busy, h]

theorem busy_false_of_halt (h : s.phase = .halt) : busy s = false := by simp [busy, h]

/-- SINK after the offered beat is the sink's own move on it (R41). -/
theorem sinkAfterBeat_eq {b : Beat} (h : offeredBeat s = some b) : sinkAfterBeat s = takeBeat b s.sink := by
  simp [sinkAfterBeat, h]

/-- `beatOk` in each busy phase (R17). -/
theorem beatOk_trunc (h : s.phase = .trunc) :
    beatOk s = { s with sink := [], phase := if 0 < s.nrem.toNat then .zeros else afterNull s } := by
  simp [beatOk, h, truncOk, sinkAfterBeat, offeredBeat, takeBeat, afterNull]

theorem beatOk_zeros (h : s.phase = .zeros) :
    beatOk s = { s with
      sink := s.sink ++ [0#8], nrem := s.nrem - 1#28,
      phase := if s.nrem - 1#28 = 0#28 then afterNull s else .zeros } := by
  simp [beatOk, h, zerosOk, sinkAfterBeat, offeredBeat, takeBeat, afterNull]

theorem beatOk_sector_inner (h : s.phase = .sector) (hb : s.bidx.toNat < 2351) :
    beatOk s = { s with sink := s.sink ++ [sectorByte s.bidx.toNat s.tc], bidx := s.bidx + 1#12 } := by
  simp [beatOk, h, sectorOk, hb, sinkAfterBeat, offeredBeat, takeBeat]

theorem beatOk_sector_last (h : s.phase = .sector) (hb : ¬s.bidx.toNat < 2351) :
    beatOk s = sectorDone { s with sink := s.sink ++ [sectorByte s.bidx.toNat s.tc] } := by
  simp [beatOk, h, sectorOk, hb, sinkAfterBeat, offeredBeat, takeBeat]

/-- The sequential reading is the one the model takes (R80). -/
theorem adv_eq (t : Tc) :
    adv t =
      if (if t.frm + 1 > 74 then t.sec + 1 else t.sec) > 59 then
        ⟨t.min + 1, 0, if t.frm + 1 > 74 then 0 else t.frm + 1⟩
      else ⟨t.min, if t.frm + 1 > 74 then t.sec + 1 else t.sec, if t.frm + 1 > 74 then 0 else t.frm + 1⟩ := by
  simp [adv, advReading, Config.carryNested]

end Sys2Proof.Machine
end

