-- ==== Sys2Proof/Laws/PerInstr.lean ====
section
/-! SUPPORT. Statements made for every command, one lemma per constructor of `Instr`. -/

namespace Sys2Proof.Laws.RowOfWord

/-- A command's word selects its own row of the opcode map (30_encoding.md R63). -/
def Statement (i : Instr) : Prop := (rowOf i).selects (encode i)

theorem ldt (mm ss ff : BitVec 8) : Statement (.ldt mm ss ff) := by
  simp only [Statement, OpRow.selects, rowOf, encode, encodeLow]
  ext k hk
  simp only [BitVec.getElem_and, BitVec.getElem_append]
  interval_cases k <;> simp

theorem adv : Statement .adv := by unfold Statement; decide

theorem enc : Statement .enc := by unfold Statement; decide

theorem pregap : Statement .pregap := by unfold Statement; decide

theorem null (count : BitVec 28) : Statement (.null count) := by
  simp only [Statement, OpRow.selects, rowOf, encode, encodeLow]
  ext k hk
  simp only [BitVec.getElem_and, BitVec.getElem_append]
  interval_cases k <;> simp

end Sys2Proof.Laws.RowOfWord
end

