-- ==== Sys2Proof/Laws/Step.lean ====
section
/-! SUPPORT. What one edge can do, said once: an equation per kind of edge, and the case analysis of `step`. -/

namespace Sys2Proof.Machine

variable (s : State)

/-- `rst = 1` (R150). -/
theorem step_reset (h : (currentPins s).rst = true) : step s = .next (resetEdge (nextEdge s)) := by
  simp [step, edge, h]

/-- A ready block and no offer: nothing happens (R23). -/
theorem step_idle_quiet (hr : (currentPins s).rst = false) (hp : s.phase = .idle)
    (hv : (currentPins s).cmdValid = false) : step s = .next (nextEdge s) := by
  simp [step, edge, hr, hv, cmdReady, hp]

/-- A ready block and an offer: the word is accepted (R23). -/
theorem step_idle_offer (hr : (currentPins s).rst = false) (hp : s.phase = .idle)
    (hv : (currentPins s).cmdValid = true) :
    step s = offerCommand (currentPins s).cmdWord (nextEdge s) := by
  simp [step, edge, hr, hv, cmdReady, hp]

/-- A beat on offer: the sink's pins decide (R23). -/
theorem step_busy (hr : (currentPins s).rst = false) (hb : busy s = true) :
    step s = .next (answerBeat (currentPins s) (nextEdge s)) := by
  have hp : s.phase ≠ .idle := by
    intro h
    simp [busy, h] at hb
  have hb' : busy (nextEdge s) = true := hb
  simp [step, edge, hr, cmdReady, hp, snkValid, hb']

/-- HALT without reset: nothing happens (R137). -/
theorem step_halt (hr : (currentPins s).rst = false) (hp : s.phase = .halt) : step s = .next (nextEdge s) := by
  simp [step, edge, hr, cmdReady, snkValid, busy, hp]

/-- Everything an edge can do: reset, an idle edge, a command, an illegal word, a beat's edge, an edge in HALT. -/
theorem step_cases {t : State} (h : step s = .next t) :
    ((currentPins s).rst = true ∧ t = resetEdge (nextEdge s)) ∨
    ((currentPins s).rst = false ∧ s.phase = .idle ∧ (currentPins s).cmdValid = false ∧ t = nextEdge s) ∨
    ((currentPins s).rst = false ∧ s.phase = .idle ∧ (currentPins s).cmdValid = true ∧
      ∃ i, decode (currentPins s).cmdWord = .instr i ∧ exec i (nextEdge s) = .next t) ∨
    ((currentPins s).rst = false ∧ s.phase = .idle ∧ (currentPins s).cmdValid = true ∧
      (∃ why, decode (currentPins s).cmdWord = .illegal why) ∧ t = raiseFault usageCode (nextEdge s)) ∨
    ((currentPins s).rst = false ∧ busy s = true ∧ t = answerBeat (currentPins s) (nextEdge s)) ∨
    ((currentPins s).rst = false ∧ s.phase = .halt ∧ t = nextEdge s) := by
  cases hr : (currentPins s).rst with
  | true =>
    rw [step_reset s hr] at h
    cases h
    exact .inl ⟨rfl, rfl⟩
  | false =>
    by_cases hp : s.phase = .idle
    · cases hv : (currentPins s).cmdValid with
      | false =>
        rw [step_idle_quiet s hr hp hv] at h
        cases h
        exact .inr (.inl ⟨rfl, hp, rfl, rfl⟩)
      | true =>
        rw [step_idle_offer s hr hp hv] at h
        unfold offerCommand at h
        split at h
        · exact .inr (.inr (.inl ⟨rfl, hp, rfl, _, ‹_›, h⟩))
        · rw [illegalCommand, whenReady_idle _ _ (by simpa using hp)] at h
          cases h
          exact .inr (.inr (.inr (.inl ⟨rfl, hp, rfl, ⟨_, ‹_›⟩, rfl⟩)))
    · cases hb : busy s with
      | true =>
        rw [step_busy s hr hb] at h
        cases h
        exact .inr (.inr (.inr (.inr (.inl ⟨rfl, rfl, rfl⟩))))
      | false =>
        have hh : s.phase = .halt := by
          revert hb hp
          unfold busy
          cases s.phase <;> simp
        rw [step_halt s hr hh] at h
        cases h
        exact .inr (.inr (.inr (.inr (.inr ⟨rfl, hh, rfl⟩))))

end Sys2Proof.Machine
end

