-- ==== Sys2Proof/Laws/Run.lean ====
section
/-! SUPPORT. The first edge of a run, split off from the rest of it, and the fields of a state right after a reset. -/

namespace Sys2Proof.Machine

variable {s t : State}

/-- A run is its first edge and the run of the rest. -/
theorem run_succ (k : Nat) (h : step s = .next t) : run (k + 1) s = run k t := by simp [run, h]

/-- The words accepted are the first edge's and those of the rest. -/
theorem acceptedWords_succ (k : Nat) (h : step s = .next t) :
    acceptedWords (k + 1) s = acceptedNow s ++ acceptedWords k t := by simp [acceptedWords, h]

/-- The beats answered are the first edge's and those of the rest. -/
theorem answeredBeats_succ (k : Nat) (h : step s = .next t) :
    answeredBeats (k + 1) s = answeredNow s ++ answeredBeats k t := by simp [answeredBeats, h]

/-- A reset's fields that have a value (R25). -/
theorem AfterReset.phase (h : AfterReset s) : s.phase = .idle := by
  obtain ⟨u, rfl⟩ := h
  rfl

theorem AfterReset.tcv (h : AfterReset s) : s.tcv = false := by
  obtain ⟨u, rfl⟩ := h
  rfl

theorem AfterReset.fault (h : AfterReset s) : s.fault = 0#2 := by
  obtain ⟨u, rfl⟩ := h
  rfl

end Sys2Proof.Machine
end

