-- ==== Sys2Proof/Tests/Slice0.lean ====
section
/-! SUPPORT. Tests. Expected results are the spec's: vectors of 95_test_vectors.md, named at each test, or the rule named there.
The theorems named witness_… show that the hypotheses of an obligation can be met, one for each clause at a boundary value. -/

namespace Sys2Proof.Tests

open Sys2Proof.Machine

/-! ## Small states -/

/-- An idle block with the timecode (12, 34, 56) loaded. -/
def idleState : State where
  min := 12
  sec := 34
  frm := 56
  tcv := true
  phase := .idle
  fault := 0
  nrem := 0
  srem := 0
  bidx := 0
  adva := false
  sink := [1, 2, 3]
  env := []
  tick := 0

/-- An idle block with no timecode. -/
def blankState : State := { idleState with tcv := false }

/-- A NULL with `n` zeros to come, the TRUNC beat on offer. -/
def nullTrunc (n : BitVec 28) : State := { idleState with phase := .trunc, nrem := n }

/-- A NULL with `n` zeros to come, a zero on offer. -/
def nullZeros (n : BitVec 28) : State := { idleState with phase := .zeros, nrem := n }

/-- A PREGAP with `k` sectors to come, byte `i` on offer. -/
def pregapSector (k : BitVec 8) (i : BitVec 12) : State :=
  { idleState with phase := .sector, srem := k, bidx := i, adva := true }

/-- An ENC with byte `i` on offer. -/
def encSector (i : BitVec 12) : State := { idleState with phase := .sector, srem := 1, bidx := i }

/-- A block halted by USAGE. -/
def haltState : State := { idleState with phase := .halt, fault := 1 }

def okPins : Pins := { Pins.quiet with snkReady := true }
def errPins : Pins := { Pins.quiet with snkReady := true, snkErr := true }
def rstPins : Pins := { Pins.offer 0x100C2238 with rst := true }

/-- `s` with the coming edges' pins. -/
def facing (s : State) (ps : List Pins) : State := { s with env := ps }

/-- The next state, if there is one. -/
def nextOf : Result → Option State
  | .next t => some t
  | .fault _ => none
  | .refused _ => none

/-- One field, or a few, of the state after one edge. -/
def after {α : Type} (s : State) (f : State → α) : Option α := (nextOf (step s)).map f

/-! ## WellFormed: an ill-formed line for each check (R66, R120) -/

theorem test_wellFormed_minute : Asm.wellFormed (.ldt 256 0 0) = false := by decide
theorem test_wellFormed_second : Asm.wellFormed (.ldt 0 256 0) = false := by decide
theorem test_wellFormed_frame : Asm.wellFormed (.ldt 0 0 256) = false := by decide
theorem test_wellFormed_count : Asm.wellFormed (.null 268435456) = false := by decide
theorem test_wellFormed_pregapD_minute : Asm.wellFormed (.pregapD 256 0 0) = false := by decide
theorem test_wellFormed_pregapD_second : Asm.wellFormed (.pregapD 0 256 0) = false := by decide
theorem test_wellFormed_pregapD_frame : Asm.wellFormed (.pregapD 0 0 256) = false := by decide

/-- R66: seconds over 59 and frames over 74 must not be rejected. -/
theorem test_wellFormed_outOfCalendar : Asm.wellFormed (.ldt 255 255 255) = true := by decide

/-! ## Decode: words written out from the fields of R61 -/

/-- op 0001, zero 0000, mm 12, ss 34, ff 56 (E7). -/
theorem test_decode_ldt : decode 0b0001_0000_00001100_00100010_00111000#32 = .instr (.ldt 12 34 56) := by decide
/-- op 0010, zero (X6). -/
theorem test_decode_adv : decode 0b0010_0000000000000000000000000000#32 = .instr .adv := by decide
/-- op 0011, zero (X9). -/
theorem test_decode_enc : decode 0b0011_0000000000000000000000000000#32 = .instr .enc := by decide
/-- op 0100, zero (X11). -/
theorem test_decode_pregap : decode 0b0100_0000000000000000000000000000#32 = .instr .pregap := by decide
/-- op 0101, count 352800 (X15). -/
theorem test_decode_null : decode 0b0101_0000000001010110001000100000#32 = .instr (.null 352800) := by decide
/-- X4, X7, X12, X16: a zero field set, and an opcode without a row. -/
theorem test_decode_illegal :
    decode 0x1F000000 = .illegal (.zeroField 1) ∧ decode 0x20000001 = .illegal (.zeroField 2) ∧
      decode 0x4FFFFFFF = .illegal (.zeroField 4) ∧ decode 0x60000000 = .illegal (.opcode 6) := by decide
/-- The words of section 2.3 from their commands (E3, E9, E17). -/
theorem test_encode :
    encode (.ldt 0 59 74) = 0x10003B4A ∧ encode (.ldt 255 255 255) = 0x10FFFFFF ∧
      encode (.null 268435455) = 0x5FFFFFFF := by decide
theorem test_decodeTableWord : decodeTableWord 32 0x100C2238 = some (.ldt 12 34 56) := by decide
theorem test_decodeTableWord_refuses : decodeTableWord 32 0 = none := by decide

/-! ## The assembler (R66, R67) -/

/-- A line with a comment (E3). -/
theorem test_assembleLine_ldt :
    assembleLine ['L', 'D', 'T', ' ', ' ', '0', ',', ' ', '5', '9', ',', ' ', '7', '4', ' ', ';', 'x'] =
      some [0x10003B4A] := by decide
/-- E16: `PREGAP.A`. -/
theorem test_assembleLine_pregapA :
    assembleLine ['P', 'R', 'E', 'G', 'A', 'P', '.', 'A'] = some [0x50056220] := by decide
/-- R66: an operand over 255 is rejected. -/
theorem test_assembleLine_rejects :
    assembleLine ['L', 'D', 'T', ' ', '0', ',', '2', '5', '6', ',', '0'] = none := by decide
/-- R67: `PREGAP.D 0, 0, 0` (program P1). -/
theorem test_assemble_pregapD : assemble (.pregapD 0 0 0) = some [0x10000000, 0x40000000] := by decide

/-! ## The functions -/

/-- A16, A18, A21: a frame or second of 255 is compared as 256, not wrapped to 0. -/
theorem test_adv_wide :
    adv ⟨0, 0, 255⟩ = ⟨0, 1, 0⟩ ∧ adv ⟨0, 59, 255⟩ = ⟨1, 0, 0⟩ ∧ adv ⟨7, 255, 255⟩ = ⟨8, 0, 0⟩ := by decide
/-- A11, A22, A24: no rollover at 99, and the second's test made without a frame carry. -/
theorem test_adv_sequential :
    adv ⟨99, 59, 74⟩ = ⟨100, 0, 0⟩ ∧ adv ⟨0, 60, 0⟩ = ⟨1, 0, 1⟩ ∧ adv ⟨9, 255, 73⟩ = ⟨10, 0, 74⟩ := by decide
/-- A22 to A24, last column: the nested reading. -/
theorem test_adv_nested : advReading true ⟨0, 60, 0⟩ = ⟨0, 60, 1⟩ ∧ advReading true ⟨9, 255, 73⟩ = ⟨9, 255, 74⟩ := by
  decide
/-- Section 2.2: 59, 99, 100, 159, 160, 255. -/
theorem test_bcd8 :
    bcd8 59 = 0x59 ∧ bcd8 99 = 0x99 ∧ bcd8 100 = 0xA0 ∧ bcd8 159 = 0xF9 ∧ bcd8 160 = 0x00 ∧ bcd8 255 = 0x95 := by
  decide
/-- T3: the bytes at the edges of each field. -/
theorem test_sectorByte :
    [0, 1, 10, 11, 12, 13, 14, 15, 16, 2351].map (fun i => sectorByte i ⟨12, 34, 56⟩) =
      [0x00, 0xFF, 0xFF, 0x00, 0x12, 0x34, 0x56, 0x01, 0x00, 0x00] := by decide

/-! ## The commands, one edge each -/

/-- R81's worked example. -/
theorem test_ldt_loads :
    after (facing blankState [Pins.offer 0x100C2238]) (fun t => (t.tc, t.tcv, statusWord t)) =
      some (⟨12, 34, 56⟩, true, 0x04) := by decide
/-- F5: a malformed LDT loads nothing. -/
theorem test_ldt_malformed :
    after (facing blankState [Pins.offer 0x11000000]) (fun t => (statusWord t, t.tcv)) = some (0x12, false) := by decide
/-- A7. -/
theorem test_adv_carries :
    after (facing { idleState with min := 0, sec := 59, frm := 74 } [Pins.offer 0x20000000])
      (fun t => (t.tc, statusWord t, t.sink)) = some (⟨1, 0, 0⟩, 0x04, [1, 2, 3]) := by decide
/-- F1. -/
theorem test_adv_without_timecode :
    after (facing blankState [Pins.offer 0x20000000]) (fun t => (statusWord t, t.phase)) = some (0x12, .halt) := by
  decide
/-- T6, the row `n = 0`. -/
theorem test_enc_starts :
    after (facing idleState [Pins.offer 0x30000000]) (fun t => (t.phase, t.srem, t.bidx, statusWord t, t.sink)) =
      some (.sector, 1, 0, 0x05, [1, 2, 3]) := by decide
/-- F3. -/
theorem test_enc_without_timecode :
    after (facing blankState [Pins.offer 0x30000000]) statusWord = some 0x12 := by decide
/-- Q11, the row `n = 0`. -/
theorem test_pregap_starts :
    after (facing idleState [Pins.offer 0x40000000]) (fun t => (t.phase, t.nrem, t.srem, t.adva, t.sink)) =
      some (.trunc, 176400, 150, true, [1, 2, 3]) := by decide
/-- F2: no TRUNC beat, the sink is kept. -/
theorem test_pregap_without_timecode :
    after (facing blankState [Pins.offer 0x40000000]) (fun t => (statusWord t, t.sink)) = some (0x12, [1, 2, 3]) := by
  decide
/-- N5, the row `accepted`; with `TCV = 0`. -/
theorem test_null_starts :
    after (facing blankState [Pins.offer 0x50000002]) (fun t => (t.phase, t.nrem, t.srem, statusWord t)) =
      some (.trunc, 2, 0, 0x01) := by decide
/-- N1: `NULL 0` is over with its TRUNC beat. -/
theorem test_null_zero :
    after (facing (nullTrunc 0) [okPins]) (fun t => (t.phase, t.sink)) = some (.idle, []) := by decide

/-! ## Beats, reset, halt -/

/-- N5, the last row. -/
theorem test_zeros_last :
    after (facing (nullZeros 1) [okPins]) (fun t => (t.phase, t.nrem, t.sink)) = some (.idle, 0, [1, 2, 3, 0]) := by
  decide
/-- Q11, the row `n = 178753`: the advance comes with the answer to the sector's last byte. -/
theorem test_sector_last_advances :
    after (facing { pregapSector 150 2351 with min := 0, sec := 0, frm := 74 } [okPins])
      (fun t => (t.phase, t.srem, t.bidx, t.tc)) = some (.sector, 149, 0, ⟨0, 1, 0⟩) := by decide
/-- F8: `err` together with `ready` at byte 13. -/
theorem test_err_wins :
    after (facing (encSector 13) [errPins]) (fun t => (statusWord t, t.bidx, t.srem, t.tc)) =
      some (0x36, 13, 1, ⟨12, 34, 56⟩) := by decide
/-- F13. -/
theorem test_reset_leaves_halt :
    after (facing haltState [rstPins]) (fun t => (statusWord t, t.phase, cmdReady t)) = some (0x00, .idle, true) := by
  decide
/-- F12: a command offered in HALT. -/
theorem test_halt_ignores_commands :
    after (facing haltState [Pins.offer 0x10000000]) (fun t => (t.phase, t.tc)) = some (.halt, ⟨12, 34, 56⟩) := by decide
/-- R21 with `TC = (100, 59, 74)` (section 2.2). -/
theorem test_outputs :
    let s := { idleState with min := 100, sec := 59, frm := 74 }
    (tcMin 32 s, bcdMin s, bcdSec s, bcdFrm s) = (100, 0xA0, 0x59, 0x74) := by decide
/-- The word placed for the coming edge is the one that runs, from reset. -/
theorem test_withFetchWord :
    after (State.reset.withFetchWord 32 0x100C2238) State.tc = some ⟨12, 34, 56⟩ := by decide

/-! ## Witnesses -/

/-- A sink that answers `ok` at every edge (obligations on whole operations). -/
theorem answersOk_replicate (n : Nat) : answersOk (List.replicate n okPins) n = true := by
  induction n with
  | zero => rfl
  | succ n ih => simpa [answersOk, List.replicate_succ, okPins, Pins.quiet] using ih

theorem witness_EncodeOfDecode : decode 0x5FFFFFFF = .instr (.null 268435455) := by decide

theorem witness_WordsSelectTheirRow :
    (∀ r ∈ opcodeMap, r.selects r.pattern) ∧ (∀ r ∈ opcodeMap, ¬r.selects 0) := by decide

/-- A word for each clause of R65's list, at a ready block. -/
theorem witness_IllegalWordRaisesUsage :
    opField 0x0FFFFFFF = 0x0 ∧ 6 ≤ (opField 0x60000000).toNat ∧
      (opField 0x28000000 = 0x2 ∧ lowField 0x28000000 ≠ 0) ∧ (opField 0x30000100 = 0x3 ∧ lowField 0x30000100 ≠ 0) ∧
      (opField 0x4FFFFFFF = 0x4 ∧ lowField 0x4FFFFFFF ≠ 0) ∧ (opField 0x11000000 = 0x1 ∧ zeroFieldT 0x11000000 ≠ 0) ∧
      idleState.phase = .idle ∧ (currentPins (facing idleState [Pins.offer 0x11000000])).Offers 0x11000000 := by
  unfold Pins.Offers
  decide

theorem witness_AssemblerChecksRanges :
    (assemble (.ldt 255 255 255)).isSome = true ∧ (assemble (.ldt 0 0 256)).isSome = false ∧
      (assemble (.null 268435455)).isSome = true ∧ (assemble (.null 268435456)).isSome = false := by decide

theorem witness_StepRunsTheDecodedCommand :
    idleState.phase = .idle ∧ (currentPins (facing idleState [Pins.offer 0x20000000])).Offers 0x20000000 ∧
      decode 0x20000000 = .instr .adv := by
  unfold Pins.Offers
  decide

theorem witness_CommandPinsIgnoredWhileNotReady :
    (encSector 0).phase ≠ .idle ∧ (Pins.offer 0x20000000).rst = Pins.quiet.rst ∧
      (Pins.offer 0x20000000).snkReady = Pins.quiet.snkReady ∧ (Pins.offer 0x20000000).snkErr = Pins.quiet.snkErr := by
  decide

theorem witness_SinkPinsIgnoredWithoutOffer :
    busy idleState = false ∧ busy haltState = false ∧ errPins.rst = Pins.quiet.rst ∧
      errPins.cmdValid = Pins.quiet.cmdValid ∧ errPins.cmdWord = Pins.quiet.cmdWord := by decide

theorem witness_UnansweredBeatStaysOnOffer :
    let s := facing (encSector 2351) [Pins.quiet, Pins.offer 0x20000000]
    busy s = true ∧ 2 ≤ s.env.length ∧
      ∀ p ∈ s.env.take 2, p.rst = false ∧ p.snkReady = false ∧ p.snkErr = false := by decide

theorem witness_HaltIsLeftOnlyByReset :
    haltState.phase = .halt ∧ 2 ≤ (facing haltState [okPins, errPins]).env.length ∧
      resetFree 2 (facing haltState [okPins, errPins]) ∧ (currentPins (facing haltState [rstPins])).rst = true := by
  unfold resetFree
  decide

theorem witness_ResetEdgeGivesResetValues : (currentPins (facing (encSector 5) [rstPins])).rst = true := by decide

/-- The completions of the commands: a ready block with a timecode. -/
theorem witness_completions : idleState.phase = .idle ∧ idleState.tcv = true := by decide

/-- NULL and LDT complete without a timecode too. -/
theorem witness_completions_blank : blankState.phase = .idle ∧ blankState.tcv = false := by decide

theorem witness_UsageReplacesTheEffect :
    blankState.phase = .idle ∧ (currentPins (facing blankState [Pins.offer 0x20000000])).Offers 0x20000000 ∧
      decode 0 = .illegal (.opcode 0) ∧ blankState.tcv = false ∧ decode 0x20000000 = .instr .adv ∧
      decode 0x30000000 = .instr .enc ∧ decode 0x40000000 = .instr .pregap := by
  unfold Pins.Offers
  decide

theorem witness_CommandNotSeenUnlessReady : haltState.phase ≠ .idle ∧ (encSector 0).phase ≠ .idle := by decide

theorem witness_CommandFrame :
    ([Instr.ldt 1 2 3, .adv, .enc, .pregap, .null 0].all fun i => (nextOf (exec i idleState)).isSome) = true := by decide

/-- The three pins of a beat answered `ok`, and of one answered `err`. -/
theorem witness_answers :
    let s := facing (encSector 0) [okPins]
    let u := facing (encSector 0) [errPins]
    ((currentPins s).rst = false ∧ (currentPins s).snkErr = false ∧ (currentPins s).snkReady = true) ∧
      busy u = true ∧ (currentPins u).rst = false ∧ (currentPins u).snkErr = true := by decide

theorem witness_TruncBeatOk : (nullTrunc 0).phase = .trunc ∧ (nullTrunc 1).phase = .trunc := by decide

theorem witness_ZerosBeatOk :
    (nullZeros 1).phase = .zeros ∧ 0 < (nullZeros 1).nrem.toNat ∧ 0 < (nullZeros 268435455).nrem.toNat := by decide

theorem witness_SectorByteBeatOk :
    (encSector 0).phase = .sector ∧ (encSector 0).bidx.toNat < 2351 ∧ (encSector 2350).bidx.toNat < 2351 := by decide

theorem witness_SectorLastBeatOk :
    (encSector 2351).phase = .sector ∧ (encSector 2351).bidx.toNat = 2351 ∧ 0 < (encSector 2351).srem.toNat ∧
      (pregapSector 150 2351).bidx.toNat = 2351 ∧ 0 < (pregapSector 150 2351).srem.toNat := by decide

/-- A step that answers a next state, for the rules about every step. -/
theorem witness_steps :
    (nextOf (step (facing (encSector 12) [okPins]))).isSome = true ∧ (currentPins (facing (encSector 12) [okPins])).rst = false := by
  decide

theorem witness_SinkIsTheFoldOfAnsweredBeats :
    let s := facing (nullTrunc 1) [okPins, Pins.quiet, okPins]
    resetFree 3 s ∧ (nextOf (run 3 s)).map (fun t => decide (t.fault ≠ 3)) = some true := by
  unfold resetFree
  decide

/-- The four cases of the laws of `adv` and the origins of a pregap, each at its boundary. -/
theorem witness_AdvLaws :
    adv ⟨0, 59, 73⟩ = ⟨0, 59, 74⟩ ∧ adv ⟨0, 58, 74⟩ = ⟨0, 59, 0⟩ ∧ adv ⟨0, 59, 74⟩ = ⟨1, 0, 0⟩ ∧
      adv ⟨0, 60, 73⟩ = ⟨1, 0, 74⟩ := by decide

theorem witness_validTimecodes :
    Tc.Valid ⟨0, 57, 0⟩ ∧ Tc.Valid ⟨0, 58, 74⟩ ∧ Tc.Valid ⟨0, 59, 74⟩ ∧ ¬Tc.Valid ⟨0, 0, 75⟩ := by
  unfold Tc.Valid
  decide

/-- Both readings of the second's carry at the edges of their difference (R80). -/
theorem witness_AdvIsTheSequentialCarryChain :
    (60 > 59 ∧ 0 + 1 ≤ 74) ∧ (255 > 59 ∧ 73 + 1 ≤ 74) ∧ advReading true ⟨0, 60, 73⟩ ≠ adv ⟨0, 60, 73⟩ ∧
      advReading true ⟨0, 60, 74⟩ = adv ⟨0, 60, 74⟩ := by decide

/-- The edges of the three ranges of R91 and of the round trip (section 2.2). -/
theorem witness_packedBytes :
    bcdPack 0 < bcdPack 1 ∧ bcdPack 159 < 256 ∧ bcdPack 160 = 256 ∧ bcdUnpack (bcd8 0) = 0 ∧ bcdUnpack (bcd8 159) = 159 := by
  decide

/-- R46: the last zero, the first and the last byte of the sectors. -/
theorem witness_PregapRegionLayout :
    176399 < 176400 ∧ 149 < 150 ∧ 2351 < 2352 ∧ 176400 + 2352 * 149 + 2351 + 1 = 529200 := by decide

/-- A pregap's origins: second 57, second 58, and a frame over 74. -/
theorem witness_PregapAdvancesTwoSeconds :
    Tc.Valid ⟨0, 57, 74⟩ ∧ Tc.Valid ⟨0, 58, 0⟩ ∧ (adv ⟨0, 0, 75⟩).frm = 0 := by
  unfold Tc.Valid
  decide

theorem witness_EncAppendsOneSector :
    idleState.phase = .idle ∧ idleState.tcv = true ∧ (Pins.offer 0x30000000).Offers 0x30000000 ∧
      answersOk (List.replicate 2352 okPins) 2352 = true :=
  ⟨rfl, rfl, ⟨rfl, rfl, rfl⟩, answersOk_replicate _⟩

/-- A late answer, a command meanwhile, and the boundary counts 0 and 2. -/
theorem witness_NullLeavesZeros :
    blankState.phase = .idle ∧ (Pins.offer 0x50000002).Offers (0x50000000 ||| (2 : BitVec 28).setWidth 32) ∧
      answersOk [Pins.quiet, okPins, Pins.offer 0, okPins, okPins] (1 + (2 : BitVec 28).toNat) = true ∧
      answersOk [okPins] (1 + (0 : BitVec 28).toNat) = true := by
  unfold Pins.Offers
  decide

theorem witness_PregapEmitsItsRegion :
    idleState.phase = .idle ∧ idleState.tcv = true ∧ (Pins.offer 0x40000000).Offers 0x40000000 ∧
      answersOk (List.replicate 529201 okPins) 529201 = true :=
  ⟨rfl, rfl, ⟨rfl, rfl, rfl⟩, answersOk_replicate _⟩

/-- The first and last beats of the zero run and of the sectors. -/
theorem witness_PregapStateAtEachBeat :
    ∀ n ∈ [0, 176399, 176400 + 2352 * 0 + 0, 176400 + 2352 * 149 + 2351],
      answersOk (List.replicate (1 + n) okPins) (1 + n) = true := fun _ _ => answersOk_replicate _

/-- The invariant in every phase, with a PREGAP, a NULL and an ENC under way. -/
theorem witness_invariant :
    idleState.Inv ∧ haltState.Inv ∧ (nullTrunc 0).Inv ∧ (nullZeros 1).Inv ∧ (encSector 2351).Inv ∧
      (pregapSector 150 0).Inv ∧ (pregapSector 1 2351).Inv := by
  refine ⟨?_, ?_, ?_, ?_, ?_, ?_, ?_⟩ <;>
    (unfold State.Inv TruncShape ZerosShape SectorShape; decide)

/-- A state of the invariant with an edge to come, for the invariant and the measure. -/
theorem witness_EveryStepKeepsTheInvariant :
    (facing (pregapSector 1 2351) [okPins]).Inv ∧ (nextOf (step (facing (pregapSector 1 2351) [okPins]))).isSome = true := by
  refine ⟨?_, ?_⟩
  · unfold State.Inv TruncShape ZerosShape SectorShape; decide
  · decide

theorem witness_FaultIsWrittenOnlyByFaultsAndReset :
    after (facing blankState [Pins.offer 0]) (fun t => decide (t.fault ≠ blankState.fault)) = some true ∧
      (currentPins (facing blankState [Pins.offer 0])).rst = false ∧ haltState.fault ≠ 0 := by decide

theorem witness_TcvIsSetOnlyByLdt :
    after (facing blankState [Pins.offer 0x10000000]) State.tcv = some true ∧
      after (facing idleState [rstPins]) State.tcv = some false := by decide

theorem witness_TimecodeIsWrittenOnlyBy :
    after (facing idleState [Pins.offer 0x10000000]) State.tc = some ⟨0, 0, 0⟩ ∧
      after (facing idleState [Pins.offer 0x20000000]) State.tc = some ⟨12, 34, 57⟩ ∧
      after (facing (pregapSector 1 2351) [okPins]) State.tc = some ⟨12, 34, 57⟩ := by decide

theorem witness_MinuteNeverDecreases :
    let s := facing idleState [Pins.offer 0x20000000]
    (currentPins s).rst = false ∧ decode (currentPins s).cmdWord = .instr .adv ∧ (nextOf (step s)).isSome = true := by
  decide

theorem witness_AnsweredBeatTakesOneFromTheMeasure :
    busy (pregapSector 150 2351) = true ∧ beatsLeft (pregapSector 150 2351) = 2352 * 149 + 1 ∧
      beatsLeft (nullTrunc 0) = 1 := by decide

theorem witness_OperationsTerminate :
    answersOk (List.replicate (beatsLeft (pregapSector 150 0)) okPins) (beatsLeft (pregapSector 150 0)) = true :=
  answersOk_replicate _

/-- A block that a reset has just brought out of HALT, with the coming edges' pins. -/
def freshState (ps : List Pins) : State := resetEdge (facing haltState ps)

/-- Z3: `NULL 0` right after a reset, its one beat answered; no timecode is loaded. -/
theorem witness_CompletedRunIsFinal :
    ∃ t, RunCompletes [0x50000000] 2 (freshState [Pins.offer 0x50000000, okPins]) t ∧ t.tcv = false :=
  ⟨_, ⟨⟨_, rfl⟩, by unfold resetFree; decide, rfl, [], by decide, by decide, by decide, rfl⟩, by decide⟩

/-- The same with a program that loads a timecode (R81's worked example). -/
theorem witness_CompletedRunIsFinal_ldt :
    ∃ t, RunCompletes [0x100C2238] 1 (freshState [Pins.offer 0x100C2238]) t ∧ t.tcv = true :=
  ⟨_, ⟨⟨_, rfl⟩, by unfold resetFree; decide, rfl, [], by decide, by decide, by decide, rfl⟩, by decide⟩

/-- An edge with a reset, a state right after one, and a run in each of the three ways of not being complete. -/
theorem witness_RunsBeginWithAReset :
    (currentPins (facing haltState [rstPins])).rst = true ∧ AfterReset (freshState []) ∧ haltState.phase = .halt ∧
      busy (nullTrunc 0) = true ∧ acceptedWords 1 (freshState []) ≠ [0x100C2238] :=
  ⟨by decide, ⟨_, rfl⟩, by decide, by decide, by decide⟩

/-- A state with a timecode is no state right after a reset, so `[PREGAP]` alone has no completed run from it (R163). -/
theorem test_noRunWithoutReset (t : State) (k : Nat) : ¬RunCompletes [0x40000000] k idleState t := by
  rintro ⟨⟨u, hu⟩, -⟩
  exact absurd (congrArg State.tcv hu) (by change ¬(true = false); decide)

theorem witness_ObservationOutputs : idleState.tcv = true ∧ idleState.min < 2 ^ 32 := by decide

theorem witness_ChannelOutputs :
    (nullTrunc 0).phase = .trunc ∧ (nullZeros 1).phase = .zeros ∧ (encSector 0).phase = .sector := by decide

/-- Two blocks that differ in their unloaded timecodes and idle counters. -/
theorem witness_UnspecifiedValuesAreNeverObserved :
    AgreeOnDefined blankState { blankState with min := 99, frm := 7, nrem := 5, adva := true } ∧
      blankState.Inv ∧ State.Inv { blankState with min := 99, frm := 7, nrem := 5, adva := true } := by
  refine ⟨?_, ?_, ?_⟩
  · unfold AgreeOnDefined; decide
  · unfold State.Inv TruncShape ZerosShape SectorShape; decide
  · unfold State.Inv TruncShape ZerosShape SectorShape; decide

end Sys2Proof.Tests
end

section
/-! PROOFS. What one edge can do as one inductive case analysis (10_state.md R17, R23), and the shape of the state
after each answered beat. Every theorem about steps below is a `cases` on it. -/

namespace Sys2Proof.Machine

/-! ## The carry chain and the timecode registers -/

/-- An advance leaves a valid timecode, whatever it started from (R15). -/
theorem adv_valid (u : Tc) : (adv u).Valid := by
  rw [adv_eq, Tc.Valid]
  split_ifs <;> dsimp only <;> omega

/-- The minute is kept or carried into. -/
theorem le_adv_min (u : Tc) : u.min ≤ (adv u).min := by
  rw [adv_eq]
  split_ifs <;> dsimp only <;> omega

/-- A valid timecode fits the registers, so they read back what was written (R15). -/
theorem tc_setTc_of_valid {u : Tc} (hu : u.Valid) (s : State) : (setTc u s).tc = u := by
  obtain ⟨hsec, hfrm⟩ := hu
  have hsec' : u.sec % 256 = u.sec := by omega
  have hfrm' : u.frm % 256 = u.frm := by omega
  simp [State.tc, componentBits, hsec', hfrm']

@[simp] theorem tc_setTc_adv (u : Tc) (s : State) : (setTc (adv u) s).tc = adv u := tc_setTc_of_valid (adv_valid u) s

/-- The payload runs to the last offset of a sector (R100). -/
theorem sectorByte_last (u : Tc) : sectorByte 2351 u = 0x00#8 := by simp [sectorByte]

/-! ## Busy phases and the offered beat -/

variable {s t : State}

theorem busy_iff : busy s = true ↔ s.phase = .trunc ∨ s.phase = .zeros ∨ s.phase = .sector := by
  unfold busy
  cases s.phase <;> simp

theorem busy_of_trunc (h : s.phase = .trunc) : busy s = true := busy_iff.2 (.inl h)

theorem busy_of_zeros (h : s.phase = .zeros) : busy s = true := busy_iff.2 (.inr (.inl h))

theorem busy_of_sector (h : s.phase = .sector) : busy s = true := busy_iff.2 (.inr (.inr h))

theorem offeredBeat_trunc (h : s.phase = .trunc) : offeredBeat s = some .trunc := by simp [offeredBeat, h]

theorem offeredBeat_zeros (h : s.phase = .zeros) : offeredBeat s = some (.byte 0x00#8) := by simp [offeredBeat, h]

theorem offeredBeat_sector (h : s.phase = .sector) :
    offeredBeat s = some (.byte (sectorByte s.bidx.toNat s.tc)) := by simp [offeredBeat, h]

/-- SINK after the offered beat took effect or did not (R43, R151): the beat on offer was taken, or nothing. -/
theorem sinkAfterBeat_cases (s : State) :
    sinkAfterBeat s = s.sink ∨ ∃ b, offeredBeat s = some b ∧ sinkAfterBeat s = takeBeat b s.sink := by
  cases hb : offeredBeat s with
  | none => exact .inl (by simp [sinkAfterBeat, hb])
  | some b => exact .inr ⟨b, rfl, sinkAfterBeat_eq s hb⟩

/-! ## The answered beat -/

/-- The last byte of a sector as one update: the timecode is written in either case (R111). -/
theorem sectorDone_eq (s : State) :
    sectorDone s = { setTc (if s.adva = true then adv s.tc else s.tc) s with
      bidx := 0#12, srem := s.srem - 1#8, phase := if s.srem - 1#8 = 0#8 then .idle else s.phase } := by
  unfold sectorDone
  split
  · rfl
  · rw [setTc_tc]

/-- The written triple reads back from the registers, advanced or not. -/
theorem tc_setTc_advanced (s : State) :
    (setTc (if s.adva = true then adv s.tc else s.tc) s).tc = if s.adva = true then adv s.tc else s.tc := by
  split
  · exact tc_setTc_adv s.tc s
  · rw [setTc_tc]

/-- The last byte of a sector answered `ok` (R17, R111). -/
theorem beatOk_sector_end (hp : s.phase = .sector) (hb : 2351 ≤ s.bidx.toNat) :
    beatOk s = { setTc (if s.adva = true then adv s.tc else s.tc) s with
      sink := s.sink ++ [sectorByte s.bidx.toNat s.tc], bidx := 0#12, srem := s.srem - 1#8,
      phase := if s.srem - 1#8 = 0#8 then .idle else .sector } := by
  rw [beatOk_sector_last s hp (by omega), sectorDone_eq, ← hp]
  rfl

/-- The four ways a beat can be answered `ok` (R17, second table). -/
theorem beatOk_cases (h : busy s = true) :
    (s.phase = .trunc ∧
      beatOk s = { s with sink := [], phase := if 0 < s.nrem.toNat then .zeros else afterNull s }) ∨
    (s.phase = .zeros ∧
      beatOk s = { s with
        sink := s.sink ++ [0#8], nrem := s.nrem - 1#28,
        phase := if s.nrem - 1#28 = 0#28 then afterNull s else .zeros }) ∨
    (s.phase = .sector ∧ s.bidx.toNat < 2351 ∧
      beatOk s = { s with sink := s.sink ++ [sectorByte s.bidx.toNat s.tc], bidx := s.bidx + 1#12 }) ∨
    (s.phase = .sector ∧ 2351 ≤ s.bidx.toNat ∧
      beatOk s = { setTc (if s.adva = true then adv s.tc else s.tc) s with
        sink := s.sink ++ [sectorByte s.bidx.toNat s.tc], bidx := 0#12, srem := s.srem - 1#8,
        phase := if s.srem - 1#8 = 0#8 then .idle else .sector }) := by
  obtain hp | hp | hp := busy_iff.1 h
  · exact .inl ⟨hp, beatOk_trunc s hp⟩
  · exact .inr (.inl ⟨hp, beatOk_zeros s hp⟩)
  · obtain hb | hb := Nat.lt_or_ge s.bidx.toNat 2351
    · exact .inr (.inr (.inl ⟨hp, hb, beatOk_sector_inner s hp hb⟩))
    · exact .inr (.inr (.inr ⟨hp, hb, beatOk_sector_end hp hb⟩))

/-- A beat answered `ok` changes neither TCV nor FAULT, and no input still to come. -/
theorem beatOk_frame (h : busy s = true) :
    (beatOk s).tcv = s.tcv ∧ (beatOk s).fault = s.fault ∧ (beatOk s).env = s.env ∧ (beatOk s).tick = s.tick := by
  obtain ⟨-, e⟩ | ⟨-, e⟩ | ⟨-, -, e⟩ | ⟨-, -, e⟩ := beatOk_cases h <;> rw [e] <;> exact ⟨rfl, rfl, rfl, rfl⟩

/-- A beat answered `ok` writes the timecode only at the last byte of a sector of an operation with ADVA = 1 (R111). -/
theorem beatOk_tc (h : busy s = true) :
    (beatOk s).tc = s.tc ∨
      (s.phase = .sector ∧ s.adva = true ∧ 2351 ≤ s.bidx.toNat ∧ (beatOk s).tc = adv s.tc) := by
  obtain ⟨-, e⟩ | ⟨-, e⟩ | ⟨-, -, e⟩ | ⟨hp, hb, e⟩ := beatOk_cases h
  · exact .inl (by rw [e]; rfl)
  · exact .inl (by rw [e]; rfl)
  · exact .inl (by rw [e]; rfl)
  · have htc : (beatOk s).tc = if s.adva = true then adv s.tc else s.tc := by
      rw [e]
      exact tc_setTc_advanced s
    cases ha : s.adva with
    | false => exact .inl (by simpa [ha] using htc)
    | true => exact .inr ⟨hp, rfl, hb, by simpa [ha] using htc⟩

/-! ## The accepted command -/

/-- What accepting a command does, one constructor per acceptance row of R17; `usage` is R131. -/
inductive Accepts (s : State) : Instr → State → Prop
  | ldt (mm ss ff : BitVec 8) :
    Accepts s (.ldt mm ss ff) { s with min := minOperand mm, sec := ss, frm := ff, tcv := true }
  | adv (loaded : s.tcv = true) : Accepts s .adv (setTc (adv s.tc) s)
  | enc (loaded : s.tcv = true) : Accepts s .enc (startOperation 0#28 1#8 false .sector s)
  | pregap (loaded : s.tcv = true) : Accepts s .pregap (startOperation 176400#28 150#8 true .trunc s)
  | null (count : BitVec 28) : Accepts s (.null count) (startOperation count 0#8 false .trunc s)
  | usage {i : Instr} (needs : i = .adv ∨ i = .enc ∨ i = .pregap) (unloaded : s.tcv = false) :
    Accepts s i (raiseFault usageCode s)

/-- A command that needs a timecode has its effect, or raises USAGE (R14, R131). -/
theorem accepts_needTimecode {i : Instr} (needs : i = .adv ∨ i = .enc ∨ i = .pregap) {effect : State}
    (h : s.tcv = true → Accepts s i effect) : Accepts s i (needTimecode s effect) := by
  cases hv : s.tcv with
  | false => rw [needTimecode_unloaded s effect hv]; exact .usage needs hv
  | true => rw [needTimecode_loaded s effect hv]; exact h hv

/-- Everything `exec` can do: a ready block accepts the command, any other does not see it (R17, R57). -/
theorem exec_cases {i : Instr} (h : exec i s = .next t) :
    (s.phase = .idle ∧ Accepts s i t) ∨ (s.phase ≠ .idle ∧ t = s) := by
  cases i with
  | ldt mm ss ff => exact (whenReady_cases s _ h).imp_left fun ⟨hp, e⟩ => ⟨hp, e ▸ .ldt mm ss ff⟩
  | adv =>
    exact (whenReady_cases s _ h).imp_left fun ⟨hp, e⟩ => ⟨hp, e ▸ accepts_needTimecode (by simp) .adv⟩
  | enc =>
    exact (whenReady_cases s _ h).imp_left fun ⟨hp, e⟩ => ⟨hp, e ▸ accepts_needTimecode (by simp) .enc⟩
  | pregap =>
    exact (whenReady_cases s _ h).imp_left fun ⟨hp, e⟩ => ⟨hp, e ▸ accepts_needTimecode (by simp) .pregap⟩
  | null count => exact (whenReady_cases s _ h).imp_left fun ⟨hp, e⟩ => ⟨hp, e ▸ .null count⟩

/-- On a ready block the command is accepted. -/
theorem accepts_of_exec {i : Instr} (hp : s.phase = .idle) (h : exec i s = .next t) : Accepts s i t := by
  obtain ⟨-, ha⟩ | ⟨hn, -⟩ := exec_cases h
  · exact ha
  · exact absurd hp hn

/-- Offering a command always has a next state. -/
theorem whenReady_next (s a : State) : ∃ t, whenReady s a = .next t := by
  unfold whenReady
  split <;> exact ⟨_, rfl⟩

theorem exec_next (i : Instr) (s : State) : ∃ t, exec i s = .next t := by
  cases i <;> exact whenReady_next s _

/-! ## The edge -/

/-- Everything one edge can lead to, one constructor per kind of edge (R17, R23, R150). -/
inductive EdgeTo (s : State) : State → Prop
  /-- `rst = 1`. -/
  | reset (hr : (currentPins s).rst = true) : EdgeTo s (resetEdge (nextEdge s))
  /-- No offer in IDLE, no answer while busy, or HALT. -/
  | still (hr : (currentPins s).rst = false) : EdgeTo s (nextEdge s)
  /-- A command's word is accepted. -/
  | command {cw : Word} {i : Instr} {t : State} (hp : s.phase = .idle) (ho : (currentPins s).Offers cw)
    (hd : decode cw = .instr i) (ha : Accepts (nextEdge s) i t) : EdgeTo s t
  /-- An illegal word is accepted. -/
  | illegal (hr : (currentPins s).rst = false) (hp : s.phase = .idle) : EdgeTo s (raiseFault usageCode (nextEdge s))
  /-- The beat on offer is answered `err`. -/
  | err (hr : (currentPins s).rst = false) (hb : busy s = true) : EdgeTo s (beatErr (nextEdge s))
  /-- The beat on offer is answered `ok`. -/
  | ok (hr : (currentPins s).rst = false) (hb : busy s = true) (he : (currentPins s).snkErr = false)
    (hk : (currentPins s).snkReady = true) : EdgeTo s (beatOk (nextEdge s))

theorem edgeTo_of_step (h : step s = .next t) : EdgeTo s t := by
  obtain ⟨hr, rfl⟩ | ⟨hr, -, -, rfl⟩ | ⟨hr, hp, hv, i, hd, hx⟩ | ⟨hr, hp, -, -, rfl⟩ | ⟨hr, hb, rfl⟩ | ⟨hr, -, rfl⟩ :=
    step_cases s h
  · exact .reset hr
  · exact .still hr
  · exact .command hp ⟨hr, hv, rfl⟩ hd (accepts_of_exec hp hx)
  · exact .illegal hr hp
  · unfold answerBeat
    split_ifs with he hk
    · exact .err hr hb
    · exact .ok hr hb (Bool.eq_false_iff.2 he) hk
    · exact .still hr
  · exact .still hr

/-- The edge of a beat answered `ok` (R23, R134). -/
theorem step_ok (hb : busy s = true) (hr : (currentPins s).rst = false) (he : (currentPins s).snkErr = false)
    (hk : (currentPins s).snkReady = true) : step s = .next (beatOk (nextEdge s)) := by
  simp [step_busy s hr hb, answerBeat, he, hk]

/-- The edge of a beat that is not answered (R43). -/
theorem step_unanswered (hb : busy s = true) (hr : (currentPins s).rst = false) (he : (currentPins s).snkErr = false)
    (hk : (currentPins s).snkReady = false) : step s = .next (nextEdge s) := by
  simp [step_busy s hr hb, answerBeat, he, hk]

/-- An edge whose pins are written out. -/
theorem step_cons (s : State) (p : Pins) (rest : List Pins) :
    step { s with env := p :: rest } = edge p { s with env := rest, tick := s.tick + 1 } := rfl

theorem offerCommand_next (cw : Word) (s : State) : ∃ t, offerCommand cw s = .next t := by
  unfold offerCommand
  split
  · exact exec_next _ s
  · exact whenReady_next s _

theorem edge_next (p : Pins) (s : State) : ∃ t, edge p s = .next t := by
  unfold edge
  split
  · exact ⟨_, rfl⟩
  · split
    · split
      · exact offerCommand_next _ s
      · exact ⟨_, rfl⟩
    · split <;> exact ⟨_, rfl⟩

end Sys2Proof.Machine
end

section
/-! PROOFS. The invariant of the control state is kept by every edge (10_state.md R17, R19, R20). -/

namespace Sys2Proof.Machine

variable {s t : State}

/-! ## The invariant, phase by phase -/

theorem inv_of_idle (hp : s.phase = .idle) (hf : s.fault = 0#2) : s.Inv := by simp [State.Inv, hp, hf]

theorem inv_of_halt (hp : s.phase = .halt) (hf : s.fault = 1#2 ∨ s.fault = 3#2) : s.Inv := by
  obtain hf | hf := hf <;> simp [State.Inv, hp, hf]

theorem inv_of_trunc (hp : s.phase = .trunc) (hf : s.fault = 0#2) (h : TruncShape s) : s.Inv := by
  simp [State.Inv, hp, hf, h]

theorem inv_of_zeros (hp : s.phase = .zeros) (hf : s.fault = 0#2) (h : ZerosShape s) : s.Inv := by
  simp [State.Inv, hp, hf, h]

theorem inv_of_sector (hp : s.phase = .sector) (hf : s.fault = 0#2) (h : SectorShape s) : s.Inv := by
  simp [State.Inv, hp, hf, h]

theorem State.Inv.halt_iff (h : s.Inv) : s.phase = .halt ↔ s.fault ≠ 0#2 := h.1

theorem State.Inv.truncShape (h : s.Inv) (hp : s.phase = .trunc) : TruncShape s := by
  obtain ⟨-, -, ht, -, -⟩ := h
  exact ht hp

theorem State.Inv.zerosShape (h : s.Inv) (hp : s.phase = .zeros) : ZerosShape s := by
  obtain ⟨-, -, -, hz, -⟩ := h
  exact hz hp

theorem State.Inv.sectorShape (h : s.Inv) (hp : s.phase = .sector) : SectorShape s := by
  obtain ⟨-, -, -, -, hs⟩ := h
  exact hs hp

theorem State.Inv.fault_eq_zero (h : s.Inv) (hp : s.phase ≠ .halt) : s.fault = 0#2 :=
  not_not.1 (mt h.halt_iff.2 hp)

/-- FAULT holds one of the codes the spec defines (R19). -/
theorem State.Inv.fault_of_halt (h : s.Inv) (hp : s.phase = .halt) : s.fault = 1#2 ∨ s.fault = 3#2 := by
  have h0 := h.halt_iff.1 hp
  obtain ⟨-, h2, -⟩ := h
  bv_omega

/-- The invariant speaks of no input, so an edge's pins do not matter to it. -/
theorem inv_nextEdge : (nextEdge s).Inv ↔ s.Inv := Iff.rfl

/-! ## Kept by the parts of an edge -/

/-- An accepted command leaves a shape of R17's acceptance rows, or USAGE in HALT. -/
theorem inv_of_accepts {i : Instr} (hs : s.Inv) (hp : s.phase = .idle) (h : Accepts s i t) : t.Inv := by
  have hf : s.fault = 0#2 := hs.fault_eq_zero (by simp [hp])
  cases h with
  | ldt mm ss ff => exact inv_of_idle hp hf
  | adv loaded => exact inv_of_idle hp hf
  | enc loaded => exact inv_of_sector rfl hf (by simp [SectorShape, loaded])
  | pregap loaded => exact inv_of_trunc rfl hf (by simp [TruncShape, loaded])
  | null count => exact inv_of_trunc rfl hf (by simp [TruncShape])
  | usage needs unloaded => exact inv_of_halt rfl (.inl rfl)

/-- A TRUNC beat answered `ok` leads to the zeros of a PREGAP or a NULL; only `NULL 0` has none, and it is over. -/
theorem inv_beatOk_trunc (hs : s.Inv) (hp : s.phase = .trunc) : (beatOk s).Inv := by
  have hf : s.fault = 0#2 := hs.fault_eq_zero (by simp [hp])
  obtain ⟨hb, hshape⟩ := hs.truncShape hp
  rw [beatOk_trunc s hp]
  by_cases hn : 0 < s.nrem.toNat
  · refine inv_of_zeros (if_pos hn) hf ⟨hb, hn, ?_⟩
    exact hshape.imp_left fun ⟨ha, hv, hnrem, hsrem⟩ => ⟨ha, hv, hnrem.le, hsrem⟩
  · obtain ⟨-, -, hnrem, -⟩ | ⟨-, hsrem⟩ := hshape
    · simp [hnrem] at hn
    · exact inv_of_idle (by simp [hn, afterNull, hsrem]) hf

/-- A zero answered `ok` is followed by the next, by the first sector of a PREGAP, or by the end of a NULL. -/
theorem inv_beatOk_zeros (hs : s.Inv) (hp : s.phase = .zeros) : (beatOk s).Inv := by
  have hf : s.fault = 0#2 := hs.fault_eq_zero (by simp [hp])
  obtain ⟨hb, hn, hshape⟩ := hs.zerosShape hp
  have hleft : (s.nrem - 1#28).toNat = s.nrem.toNat - 1 := by bv_omega
  rw [beatOk_zeros s hp]
  by_cases hz : s.nrem - 1#28 = 0#28
  · obtain ⟨ha, hv, -, hsrem⟩ | ⟨-, hsrem⟩ := hshape
    · exact inv_of_sector (by simp [hz, afterNull, hsrem]) hf (by simp [SectorShape, ha, hv, hb, hz, hsrem])
    · exact inv_of_idle (by simp [hz, afterNull, hsrem]) hf
  · refine inv_of_zeros (if_neg hz) hf ⟨hb, by bv_omega, ?_⟩
    exact hshape.imp_left fun ⟨ha, hv, hnrem, hsrem⟩ => ⟨ha, hv, by simp only [hleft]; omega, hsrem⟩

/-- A sector byte answered `ok` is followed by the next, by the next sector of a PREGAP, or by the end. -/
theorem inv_beatOk_sector (hs : s.Inv) (hp : s.phase = .sector) : (beatOk s).Inv := by
  have hf : s.fault = 0#2 := hs.fault_eq_zero (by simp [hp])
  obtain ⟨hv, hn, hb, hsrem, hshape⟩ := hs.sectorShape hp
  obtain ⟨hp', -⟩ | ⟨hp', -⟩ | ⟨-, hlt, e⟩ | ⟨-, -, e⟩ := beatOk_cases (busy_of_sector hp)
  · simp [hp] at hp'
  · simp [hp] at hp'
  · rw [e]
    exact inv_of_sector hp hf ⟨hv, hn, by simp only [Config.sectorBytes]; bv_omega, hsrem, hshape⟩
  · rw [e]
    by_cases hz : s.srem - 1#8 = 0#8
    · exact inv_of_idle (if_pos hz) hf
    · have hleft : (s.srem - 1#8).toNat = s.srem.toNat - 1 := by bv_omega
      have hmore : 0 < (s.srem - 1#8).toNat := by bv_omega
      refine inv_of_sector (if_neg hz) hf ⟨hv, hn, by simp, hmore, ?_⟩
      obtain ⟨ha, hle⟩ | ⟨-, hone⟩ := hshape
      · exact .inl ⟨ha, by simp only [hleft]; omega⟩
      · omega

theorem inv_beatOk (hs : s.Inv) (hb : busy s = true) : (beatOk s).Inv := by
  obtain hp | hp | hp := busy_iff.1 hb
  · exact inv_beatOk_trunc hs hp
  · exact inv_beatOk_zeros hs hp
  · exact inv_beatOk_sector hs hp

/-- Settles O45: each kind of edge leads to a state whose counters have the shape its phase asks for. -/
theorem everyStepKeepsTheInvariant : Obligations.EveryStepKeepsTheInvariant := by
  intro s t hs h
  cases edgeTo_of_step h with
  | reset hr => exact inv_of_idle rfl rfl
  | still hr => exact hs
  | command hp ho hd ha => exact inv_of_accepts (inv_nextEdge.2 hs) hp ha
  | illegal hr hp => exact inv_of_halt rfl (.inl rfl)
  | err hr hb => exact inv_of_halt rfl (.inr rfl)
  | ok hr hb he hk => exact inv_beatOk (inv_nextEdge.2 hs) hb

/-- Settles O46: a reset block is idle without a fault. -/
theorem resetMeetsTheInvariant : Obligations.ResetMeetsTheInvariant := inv_of_idle rfl rfl

end Sys2Proof.Machine
end

section
/-! PROOFS. Noninterference (93_implementation_defined.md U8, U10): every operation of the model, applied to two states
that agree on what the spec gives a value, leads to two states that agree so again. -/

namespace Sys2Proof.Machine

variable {s t : State}

/-! ## What agreeing states share -/

theorem AgreeOnDefined.refl (s : State) : AgreeOnDefined s s :=
  ⟨rfl, rfl, rfl, rfl, rfl, rfl, fun _ => ⟨rfl, rfl, rfl⟩, fun _ => ⟨rfl, rfl, rfl, rfl⟩⟩

theorem AgreeOnDefined.phase_eq (h : AgreeOnDefined s t) : s.phase = t.phase := by
  obtain ⟨-, hp, -⟩ := h
  exact hp

theorem AgreeOnDefined.tcv_eq (h : AgreeOnDefined s t) : s.tcv = t.tcv := by
  obtain ⟨hv, -⟩ := h
  exact hv

theorem AgreeOnDefined.fault_eq (h : AgreeOnDefined s t) : s.fault = t.fault := by
  obtain ⟨-, -, hf, -⟩ := h
  exact hf

theorem AgreeOnDefined.sink_eq (h : AgreeOnDefined s t) : s.sink = t.sink := by
  obtain ⟨-, -, -, hs, -⟩ := h
  exact hs

theorem AgreeOnDefined.tick_eq (h : AgreeOnDefined s t) : s.tick = t.tick := by
  obtain ⟨-, -, -, -, -, hk, -⟩ := h
  exact hk

theorem AgreeOnDefined.currentPins_eq (h : AgreeOnDefined s t) : currentPins s = currentPins t := by
  obtain ⟨-, -, -, -, he, -⟩ := h
  simp [currentPins, he]

theorem AgreeOnDefined.busy_eq (h : AgreeOnDefined s t) : busy s = busy t := by simp [busy, h.phase_eq]

theorem AgreeOnDefined.cmdReady_eq (h : AgreeOnDefined s t) : cmdReady s = cmdReady t := by
  simp [cmdReady, h.phase_eq]

/-- A loaded timecode is the same in both. -/
theorem AgreeOnDefined.timecode (h : AgreeOnDefined s t) (hv : s.tcv = true) :
    s.min = t.min ∧ s.sec = t.sec ∧ s.frm = t.frm := by
  obtain ⟨-, -, -, -, -, -, htc, -⟩ := h
  exact htc hv

theorem AgreeOnDefined.tc_eq (h : AgreeOnDefined s t) (hv : s.tcv = true) : s.tc = t.tc := by
  obtain ⟨hm, hs, hf⟩ := h.timecode hv
  simp [State.tc, hm, hs, hf]

/-- A busy block with a timecode loaded has no unspecified field left. -/
theorem AgreeOnDefined.eq_of_loaded_busy (h : AgreeOnDefined s t) (hv : s.tcv = true) (hb : busy s = true) :
    s = t := by
  obtain ⟨htcv, hp, hf, hs, he, hk, htc, hcnt⟩ := h
  obtain ⟨hmin, hsec, hfrm⟩ := htc hv
  obtain ⟨hn, hr, hi, ha⟩ := hcnt hb
  cases s
  cases t
  simp_all

/-- In SECTOR the invariant says a timecode is loaded, so nothing unspecified is left. -/
theorem AgreeOnDefined.eq_of_sector (h : AgreeOnDefined s t) (hs : s.Inv) (hp : s.phase = .sector) : s = t := by
  obtain ⟨hv, -⟩ := hs.sectorShape hp
  exact h.eq_of_loaded_busy hv (busy_of_sector hp)

theorem AgreeOnDefined.offeredBeat_eq (h : AgreeOnDefined s t) (hs : s.Inv) : offeredBeat s = offeredBeat t := by
  by_cases hp : s.phase = .sector
  · rw [h.eq_of_sector hs hp]
  · have hp' := h.phase_eq
    unfold offeredBeat
    rw [← hp']
    cases hq : s.phase with
    | sector => exact absurd hq hp
    | idle | trunc | zeros | halt => rfl

theorem AgreeOnDefined.sinkAfterBeat_eq (h : AgreeOnDefined s t) (hs : s.Inv) :
    sinkAfterBeat s = sinkAfterBeat t := by
  simp [sinkAfterBeat, h.offeredBeat_eq hs, h.sink_eq]

/-- The output ports show only what agreeing states share; the free values of logs 7 and 8 depend on the edge alone. -/
theorem AgreeOnDefined.samePorts (h : AgreeOnDefined s t) (hs : s.Inv) : SamePorts s t := by
  have hbeat := h.offeredBeat_eq hs
  have htick := h.tick_eq
  have hstatus : statusWord s = statusWord t := by
    simp [statusWord, halted, h.fault_eq, h.tcv_eq, h.phase_eq, h.busy_eq]
  have hkind : snkKind s = snkKind t := by simp [snkKind, hbeat, htick]
  have hdata : snkData s = snkData t := by simp [snkData, hbeat, htick]
  refine ⟨hstatus, h.cmdReady_eq, h.busy_eq, hkind, hdata, ?_⟩
  cases hv : s.tcv with
  | false =>
    have hv' : t.tcv = false := h.tcv_eq ▸ hv
    simp [tcMin, tcSec, tcFrm, bcdMin, bcdSec, bcdFrm, hv, hv', htick]
  | true =>
    have hv' : t.tcv = true := h.tcv_eq ▸ hv
    obtain ⟨hmin, hsec, hfrm⟩ := h.timecode hv
    simp [tcMin, tcSec, tcFrm, bcdMin, bcdSec, bcdFrm, hv, hv', hmin, hsec, hfrm]

/-! ## Kept by each operation -/

theorem agree_nextEdge (h : AgreeOnDefined s t) : AgreeOnDefined (nextEdge s) (nextEdge t) := by
  obtain ⟨hv, hp, hf, hs, he, hk, htc, hcnt⟩ := h
  exact ⟨hv, hp, hf, hs, congrArg List.tail he, congrArg (· + 1) hk, htc, hcnt⟩

theorem agree_raiseFault (c : BitVec 2) (h : AgreeOnDefined s t) :
    AgreeOnDefined (raiseFault c s) (raiseFault c t) := by
  obtain ⟨hv, -, -, hs, he, hk, htc, -⟩ := h
  exact ⟨hv, rfl, rfl, hs, he, hk, htc, fun hb => absurd hb (by simp [busy])⟩

theorem agree_setTc (u : Tc) (h : AgreeOnDefined s t) : AgreeOnDefined (setTc u s) (setTc u t) := by
  obtain ⟨hv, hp, hf, hs, he, hk, -, hcnt⟩ := h
  exact ⟨hv, hp, hf, hs, he, hk, fun _ => ⟨rfl, rfl, rfl⟩, hcnt⟩

theorem agree_loadTimecode (m : Nat) (sec frm : BitVec 8) (h : AgreeOnDefined s t) :
    AgreeOnDefined { s with min := m, sec := sec, frm := frm, tcv := true }
      { t with min := m, sec := sec, frm := frm, tcv := true } := by
  obtain ⟨-, hp, hf, hs, he, hk, -, hcnt⟩ := h
  exact ⟨rfl, hp, hf, hs, he, hk, fun _ => ⟨rfl, rfl, rfl⟩, hcnt⟩

theorem agree_startOperation (n : BitVec 28) (r : BitVec 8) (a : Bool) (p : Phase) (h : AgreeOnDefined s t) :
    AgreeOnDefined (startOperation n r a p s) (startOperation n r a p t) := by
  obtain ⟨hv, -, hf, hs, he, hk, htc, -⟩ := h
  exact ⟨hv, rfl, hf, hs, he, hk, htc, fun _ => ⟨rfl, rfl, rfl, rfl⟩⟩

/-- The two states after a reset are equal but for the sink and the inputs, which agree. -/
theorem agree_resetEdge (h : AgreeOnDefined s t) (hs : s.Inv) : AgreeOnDefined (resetEdge s) (resetEdge t) := by
  have hsink := h.sinkAfterBeat_eq hs
  obtain ⟨-, -, -, hs, he, hk, -, -⟩ := h
  have heq : resetEdge s = resetEdge t := by simp [resetEdge, hsink, hs, he, hk]
  rw [heq]
  exact .refl _

theorem agree_beatErr (h : AgreeOnDefined s t) (hs : s.Inv) : AgreeOnDefined (beatErr s) (beatErr t) := by
  have hsink := h.sinkAfterBeat_eq hs
  obtain ⟨hv, hp, hf, hs, he, hk, htc, hcnt⟩ := h
  exact agree_raiseFault sinkCode ⟨hv, hp, hf, by simp [hsink, hs, hk], he, hk, htc, hcnt⟩

/-- The beats of TRUNC and ZEROS do not read the timecode; in SECTOR the two states are one. -/
theorem agree_beatOk (h : AgreeOnDefined s t) (hs : s.Inv) (hb : busy s = true) :
    AgreeOnDefined (beatOk s) (beatOk t) := by
  obtain hp | hp | hp := busy_iff.1 hb
  · rw [beatOk_trunc s hp, beatOk_trunc t (h.phase_eq ▸ hp)]
    obtain ⟨hv, -, hf, -, he, hk, htc, hcnt⟩ := h
    obtain ⟨hn, hr, hi, ha⟩ := hcnt hb
    exact ⟨hv, by simp [afterNull, hn, hr], hf, rfl, he, hk, htc, fun _ => ⟨hn, hr, hi, ha⟩⟩
  · rw [beatOk_zeros s hp, beatOk_zeros t (h.phase_eq ▸ hp)]
    obtain ⟨hv, -, hf, hs, he, hk, htc, hcnt⟩ := h
    obtain ⟨hn, hr, hi, ha⟩ := hcnt hb
    exact ⟨hv, by simp [afterNull, hn, hr], hf, by simp [hs], he, hk, htc, fun _ => ⟨by simp [hn], hr, hi, ha⟩⟩
  · rw [h.eq_of_sector hs hp]
    exact .refl _

theorem agree_answerBeat (p : Pins) (h : AgreeOnDefined s t) (hs : s.Inv) (hb : busy s = true) :
    AgreeOnDefined (answerBeat p s) (answerBeat p t) := by
  unfold answerBeat
  split
  · exact agree_beatErr h hs
  · split
    · exact agree_beatOk h hs hb
    · exact h

theorem agree_needTimecode {a b : State} (h : AgreeOnDefined s t)
    (hab : s.tcv = true → AgreeOnDefined a b) : AgreeOnDefined (needTimecode s a) (needTimecode t b) := by
  cases hv : s.tcv with
  | false =>
    rw [needTimecode_unloaded s a hv, needTimecode_unloaded t b (h.tcv_eq ▸ hv)]
    exact agree_raiseFault usageCode h
  | true =>
    rw [needTimecode_loaded s a hv, needTimecode_loaded t b (h.tcv_eq ▸ hv)]
    exact hab hv

/-! ## Kept by a whole edge -/

/-- Agreement of the next states of two results. -/
def AgreeResults (x y : Result) : Prop := ∀ s' t', x = .next s' → y = .next t' → AgreeOnDefined s' t'

theorem agreeResults_next (h : AgreeOnDefined s t) : AgreeResults (.next s) (.next t) := by
  rintro _ _ ⟨⟩ ⟨⟩
  exact h

theorem agreeResults_whenReady {a b : State} (h : AgreeOnDefined s t) (hab : AgreeOnDefined a b) :
    AgreeResults (whenReady s a) (whenReady t b) := by
  unfold whenReady
  rw [← h.cmdReady_eq]
  split
  · exact agreeResults_next hab
  · exact agreeResults_next h

theorem agreeResults_exec (i : Instr) (h : AgreeOnDefined s t) : AgreeResults (exec i s) (exec i t) := by
  cases i with
  | ldt mm ss ff => exact agreeResults_whenReady h (agree_loadTimecode _ _ _ h)
  | adv =>
    refine agreeResults_whenReady h (agree_needTimecode h fun hv => ?_)
    rw [h.tc_eq hv]
    exact agree_setTc _ h
  | enc => exact agreeResults_whenReady h (agree_needTimecode h fun _ => agree_startOperation _ _ _ _ h)
  | pregap => exact agreeResults_whenReady h (agree_needTimecode h fun _ => agree_startOperation _ _ _ _ h)
  | null count => exact agreeResults_whenReady h (agree_startOperation _ _ _ _ h)

theorem agreeResults_offerCommand (cw : Word) (h : AgreeOnDefined s t) :
    AgreeResults (offerCommand cw s) (offerCommand cw t) := by
  unfold offerCommand
  split
  · exact agreeResults_exec _ h
  · exact agreeResults_whenReady h (agree_raiseFault usageCode h)

theorem agreeResults_edge (p : Pins) (h : AgreeOnDefined s t) (hs : s.Inv) :
    AgreeResults (edge p s) (edge p t) := by
  have hvalid : snkValid s = snkValid t := h.busy_eq
  unfold edge
  rw [← h.cmdReady_eq, ← hvalid]
  split_ifs with hr hp hc hb
  · exact agreeResults_next (agree_resetEdge h hs)
  · exact agreeResults_offerCommand _ h
  · exact agreeResults_next h
  · exact agreeResults_next (agree_answerBeat p h hs hb)
  · exact agreeResults_next h

/-- Settles O57: agreeing states show the same ports, and the one edge both take, with the same pins, keeps agreement. -/
theorem unspecifiedValuesAreNeverObserved : Obligations.UnspecifiedValuesAreNeverObserved := by
  intro s t hs _ h
  refine ⟨h.samePorts hs, ?_⟩
  unfold step
  rw [← h.currentPins_eq]
  exact agreeResults_edge _ (agree_nextEdge h) (inv_nextEdge.2 hs)

end Sys2Proof.Machine
end

section
/-! PROOFS. The edge's channels and reset (10_state.md R23, R25, R57), and the frame of the commands (R13, R17). -/

namespace Sys2Proof.Machine

/-- Settles O9: a ready block with a legal word on offer runs that word's command. -/
theorem stepRunsTheDecodedCommand : Obligations.StepRunsTheDecodedCommand := by
  rintro cw i s hp ⟨hr, hv, rfl⟩ hd
  rw [step_idle_offer s hr hp hv, offerCommand, hd]
  rfl

/-- Settles O10: each branch of the edge answers a next state, and no operation touches the inputs to come. -/
theorem everyEdgeHasANextState : Obligations.EveryEdgeHasANextState := by
  intro s
  obtain ⟨t, ht⟩ := edge_next (currentPins s) (nextEdge s)
  refine ⟨t, ht, ?_⟩
  cases edgeTo_of_step ht with
  | reset hr | still hr | illegal hr hp | err hr hb => exact ⟨rfl, rfl⟩
  | command hp ho hd ha => cases ha <;> exact ⟨rfl, rfl⟩
  | ok hr hb he hk =>
    obtain ⟨-, -, henv, htick⟩ := beatOk_frame (s := nextEdge s) hb
    exact ⟨henv, htick⟩

/-- Settles O11: outside IDLE the edge reads only `rst` and the sink's pins. -/
theorem commandPinsIgnoredWhileNotReady : Obligations.CommandPinsIgnoredWhileNotReady := by
  intro s p q rest hp hrst hready herr
  rw [step_cons, step_cons]
  simp [edge, cmdReady, hp, answerBeat, hrst, hready, herr]

/-- Settles O12: with no beat on offer the edge reads only `rst` and the command's pins. -/
theorem sinkPinsIgnoredWithoutOffer : Obligations.SinkPinsIgnoredWithoutOffer := by
  intro s p q rest hb hrst hvalid hword
  have hoffer : snkValid { s with env := rest, tick := s.tick + 1 } = false := hb
  rw [step_cons, step_cons]
  simp [edge, hoffer, hrst, hvalid, hword]

/-- A beat's `snk_kind` and `snk_data` do not depend on the inputs to come or on the edge counter. -/
theorem snkKind_snkData_of_busy {s : State} (hb : busy s = true) (env : List Pins) (tick : Nat) :
    snkKind { s with env := env, tick := tick } = snkKind s ∧
      snkData { s with env := env, tick := tick } = snkData s := by
  have hoffer : offeredBeat { s with env := env, tick := tick } = offeredBeat s := rfl
  obtain ⟨b, hbeat⟩ := Option.isSome_iff_exists.1 ((offeredBeat_isSome s).trans hb)
  unfold snkKind snkData
  rw [hoffer, hbeat]
  cases b <;> exact ⟨rfl, rfl⟩

/-- Any number of edges without reset and without an answer only consume inputs (R43). -/
theorem run_unanswered (k : Nat) : ∀ s : State, busy s = true → k ≤ s.env.length →
    (∀ p ∈ s.env.take k, p.rst = false ∧ p.snkReady = false ∧ p.snkErr = false) →
    run k s = .next { s with env := s.env.drop k, tick := s.tick + k } := by
  induction k with
  | zero => intro s _ _ _; rfl
  | succ k ih =>
    intro s hb hlen hpins
    cases henv : s.env with
    | nil => simp [henv] at hlen
    | cons p rest =>
      rw [henv] at hlen hpins
      have hcur : currentPins s = p := by simp [currentPins, henv]
      obtain ⟨hr, hready, herr⟩ := hpins p (by simp)
      have hstep : step s = .next (nextEdge s) :=
        step_unanswered hb (hcur ▸ hr) (hcur ▸ herr) (hcur ▸ hready)
      have htail : (nextEdge s).env = rest := by simp [henv]
      rw [run_succ k hstep, ih (nextEdge s) hb (by rw [htail]; simpa using hlen)
        (by rw [htail]; exact fun q hq => hpins q (by simp [hq])), htail]
      simp [nextEdge, Nat.add_assoc, Nat.add_comm 1]

/-- Settles O13: by induction on the number of unanswered edges. -/
theorem unansweredBeatStaysOnOffer : Obligations.UnansweredBeatStaysOnOffer := by
  intro k s hb hlen hpins
  exact ⟨_, run_unanswered k s hb hlen hpins, rfl, hb, snkKind_snkData_of_busy hb _ _⟩

/-- The status word of an idle block without a fault (R20). -/
theorem statusWord_of_idle {s : State} (hp : s.phase = .idle) (hf : s.fault = 0#2) :
    statusWord s = if s.tcv = true then 0x04#8 else 0x00#8 := by
  cases hv : s.tcv <;> simp [statusWord, halted, busy, hp, hf, hv]

/-- Settles O15: the reset edge accepts nothing, answers nothing, and takes at most the withdrawn beat (R151). -/
theorem resetEdgeGivesResetValues : Obligations.ResetEdgeGivesResetValues := by
  intro s hr
  refine ⟨by simp [acceptedNow, hr], by simp [answeredNow, hr], _, step_reset s hr, rfl, rfl, rfl,
    statusWord_of_idle rfl rfl, rfl, rfl, rfl, ?_⟩
  rw [resetEdge_sink]
  split
  · exact sinkAfterBeat_cases (nextEdge s)
  · exact .inl rfl

/-- Settles O16: the fields R25 gives a value, read off `State.reset`. -/
theorem resetStateHasTheResetValues : Obligations.ResetStateHasTheResetValues :=
  ⟨rfl, rfl, rfl, statusWord_of_idle rfl rfl, rfl, rfl⟩

/-- Settles O24: a command not seen changes nothing; an accepted one has one of R17's acceptance rows, or raises USAGE. -/
theorem commandFrame : Obligations.CommandFrame := by
  intro i s t h
  obtain ⟨-, ha⟩ | ⟨-, rfl⟩ := exec_cases h
  · cases ha with
    | ldt | adv | enc | pregap | null => simp
    | usage needs unloaded => obtain rfl | rfl | rfl := needs <;> simp [usageCode]
  · cases i <;> simp

end Sys2Proof.Machine
end

section
/-! PROOFS. The beat steps of R17's second table, answered `ok`. -/

namespace Sys2Proof.Machine

/-- Settles O25: the row TRUNC. -/
theorem truncBeatOk : Obligations.TruncBeatOk := by
  intro s hp hr he hk
  refine ⟨offeredBeat_trunc hp, ?_⟩
  rw [step_ok (busy_of_trunc hp) hr he hk, beatOk_trunc (nextEdge s) hp]
  rfl

/-- Settles O26: the row ZEROS; NREM is above 0, so taking one from it does not wrap. -/
theorem zerosBeatOk : Obligations.ZerosBeatOk := by
  intro s hp hn hr he hk
  have hleft : (s.nrem - 1#28).toNat = s.nrem.toNat - 1 := by bv_omega
  have hlast : (nextEdge s).nrem - 1#28 = 0#28 ↔ s.nrem.toNat = 1 :=
    sub_eq_zero.trans BitVec.toNat_inj.symm
  refine ⟨offeredBeat_zeros hp, _, step_ok (busy_of_zeros hp) hr he hk, ?_⟩
  rw [beatOk_zeros (nextEdge s) hp, if_congr hlast rfl rfl]
  exact ⟨hleft, rfl⟩

/-- Settles O27: the row SECTOR before the last byte; BIDX is below 2351, so adding one does not wrap. -/
theorem sectorByteBeatOk : Obligations.SectorByteBeatOk := by
  intro s hp hb hr he hk
  have hnext : (s.bidx + 1#12).toNat = s.bidx.toNat + 1 := by bv_omega
  refine ⟨offeredBeat_sector hp, _, step_ok (busy_of_sector hp) hr he hk, ?_⟩
  rw [beatOk_sector_inner (nextEdge s) hp hb]
  exact ⟨hnext, rfl⟩

/-- Settles O28: the row SECTOR at the last byte; the advanced triple fits the registers, and SREM does not wrap. -/
theorem sectorLastBeatOk : Obligations.SectorLastBeatOk := by
  intro s hp hb hsrem hr he hk
  have hleft : (s.srem - 1#8).toNat = s.srem.toNat - 1 := by bv_omega
  have hlast : (nextEdge s).srem - 1#8 = 0#8 ↔ s.srem.toNat = 1 :=
    sub_eq_zero.trans BitVec.toNat_inj.symm
  have hbyte : sectorByte (nextEdge s).bidx.toNat (nextEdge s).tc = 0x00#8 := by
    rw [nextEdge_bidx, hb, sectorByte_last]
  refine ⟨by rw [offeredBeat_sector hp, hb, sectorByte_last], _, step_ok (busy_of_sector hp) hr he hk, ?_⟩
  rw [beatOk_sector_end (s := nextEdge s) hp hb.ge, hbyte, if_congr hlast rfl rfl]
  exact ⟨hleft, tc_setTc_advanced (nextEdge s), rfl⟩

end Sys2Proof.Machine
end

section
/-! PROOFS. What every edge keeps: the status word, FAULT, TCV and the timecode (10_state.md R13 to R15, R19 to R21). -/

namespace Sys2Proof.Machine

/-- The fields of the status word are where R20 puts them, whatever they hold. -/
theorem statusWord_fields (s : State) :
    (statusWord s).getLsbD 0 = busy s ∧ (statusWord s).getLsbD 1 = halted s ∧
    (statusWord s).getLsbD 2 = s.tcv ∧ (statusWord s).getLsbD 3 = false ∧
    (statusWord s).extractLsb' 4 2 = s.fault ∧ (statusWord s).extractLsb' 6 2 = 0#2 := by
  unfold statusWord
  generalize s.fault = f
  cases s.tcv <;> cases halted s <;> cases busy s <;> revert f <;> decide

/-- The eight values of R20: neither BUSY nor HALT, BUSY, or HALT with code 1 or 3, each with either TCV. -/
theorem statusWord_mem_of_inv {s : State} (hs : s.Inv) :
    statusWord s ∈ [0x00#8, 0x04#8, 0x01#8, 0x05#8, 0x12#8, 0x16#8, 0x32#8, 0x36#8] := by
  by_cases hp : s.phase = .halt
  · obtain hf | hf := hs.fault_of_halt hp <;> cases hv : s.tcv <;> simp [statusWord, halted, busy, hp, hf, hv]
  · have hf := hs.fault_eq_zero hp
    cases hv : s.tcv <;> cases hb : busy s <;> simp [statusWord, halted, hp, hf, hv, hb]

/-- Settles O47: the invariant fixes FAULT outside HALT, and the fields are read off the word. -/
theorem statusWordIsLegal : Obligations.StatusWordIsLegal := by
  intro s hs
  obtain ⟨h0, h1, hrest⟩ := statusWord_fields s
  exact ⟨statusWord_mem_of_inv hs, h0, by rw [h1, halted, decide_eq_true_iff], hrest⟩

/-- Settles O48: only USAGE and SINK write FAULT, and a non-zero FAULT means HALT, where nothing happens. -/
theorem faultIsWrittenOnlyByFaultsAndReset : Obligations.FaultIsWrittenOnlyByFaultsAndReset := by
  intro s t h hr
  refine ⟨fun hne => ?_, fun hs hf => ?_⟩
  · cases edgeTo_of_step h with
    | reset hr' => simp [hr] at hr'
    | still _ => exact absurd rfl hne
    | command hp ho hd ha =>
      cases ha with
      | ldt | adv | enc | pregap | null => exact absurd rfl hne
      | usage needs unloaded => exact ⟨rfl, .inl rfl⟩
    | illegal _ hp => exact ⟨rfl, .inl rfl⟩
    | err _ hb => exact ⟨rfl, .inr rfl⟩
    | ok _ hb he hk =>
      obtain ⟨-, hfault, -⟩ := beatOk_frame (s := nextEdge s) hb
      exact absurd hfault hne
  · rw [step_halt s hr (hs.halt_iff.2 hf)] at h
    cases h
    rfl

/-- Settles O49: of all edges only a reset and an accepted LDT write TCV. -/
theorem tcvIsSetOnlyByLdt : Obligations.TcvIsSetOnlyByLdt := by
  intro s t h hne
  cases edgeTo_of_step h with
  | reset hr => exact .inl ⟨hr, rfl⟩
  | still | illegal | err => exact absurd rfl hne
  | command hp ho hd ha =>
    cases ha with
    | ldt mm ss ff => exact .inr ⟨hp, rfl, _, mm, ss, ff, ho, hd⟩
    | adv | enc | pregap | null | usage => exact absurd rfl hne
  | ok hr hb he hk =>
    obtain ⟨htcv, -⟩ := beatOk_frame (s := nextEdge s) hb
    exact absurd htcv hne

/-- What an edge without reset does to the timecode: nothing, or it is loaded, or it is advanced by ADV or at a sector's
last byte. -/
theorem tc_cases_of_step {s t : State} (h : step s = .next t) (hr : (currentPins s).rst = false) :
    t.tc = s.tc ∨
    (s.phase = .idle ∧ ∃ cw, (currentPins s).Offers cw ∧ ∃ mm ss ff, decode cw = .instr (.ldt mm ss ff)) ∨
    (s.phase = .idle ∧ (∃ cw, (currentPins s).Offers cw ∧ decode cw = .instr .adv) ∧ s.tcv = true ∧ t.tc = adv s.tc) ∨
    (s.phase = .sector ∧ s.adva = true ∧ 2351 ≤ s.bidx.toNat ∧ answeredNow s ≠ [] ∧ t.tc = adv s.tc) := by
  cases edgeTo_of_step h with
  | reset hr' => simp [hr] at hr'
  | still | illegal | err => exact .inl rfl
  | command hp ho hd ha =>
    cases ha with
    | ldt mm ss ff => exact .inr (.inl ⟨hp, _, ho, mm, ss, ff, hd⟩)
    | adv loaded => exact .inr (.inr (.inl ⟨hp, ⟨_, ho, hd⟩, loaded, tc_setTc_adv _ _⟩))
    | enc | pregap | null | usage => exact .inl rfl
  | ok _ hb he hk =>
    obtain hsame | ⟨hp, hadva, hlast, hadv⟩ := beatOk_tc (s := nextEdge s) hb
    · exact .inl hsame
    · have hp' : s.phase = .sector := hp
      have hanswered : answeredNow s ≠ [] := by
        simp [answeredNow, hr, he, hk, snkValid, busy_of_sector hp', offeredBeat_sector hp']
      exact .inr (.inr (.inr ⟨hp', hadva, hlast, hanswered, hadv⟩))

/-- Settles O50: the ways an edge can write the timecode. -/
theorem timecodeIsWrittenOnlyBy : Obligations.TimecodeIsWrittenOnlyBy := by
  intro s t h hr hne
  obtain hsame | ⟨hp, cw, ho, hldt⟩ | ⟨hp, ⟨cw, ho, hadv⟩, hv, -⟩ | hsector := tc_cases_of_step h hr
  · exact absurd hsame hne
  · exact .inl ⟨hp, cw, ho, .inl hldt⟩
  · exact .inl ⟨hp, cw, ho, .inr ⟨hadv, hv⟩⟩
  · exact .inr hsector

/-- Settles O51: an edge that writes the timecode and accepts no LDT replaces it by its `adv`. -/
theorem minuteNeverDecreases : Obligations.MinuteNeverDecreases := by
  intro s t h hr hno
  have htc : t.tc = s.tc ∨ t.tc = adv s.tc := by
    obtain hsame | ⟨hp, cw, ho, mm, ss, ff, hldt⟩ | ⟨-, -, -, hadv⟩ | ⟨-, -, -, -, hadv⟩ := tc_cases_of_step h hr
    · exact .inl hsame
    · exact absurd hldt (hno cw mm ss ff hp ho)
    · exact .inr hadv
    · exact .inr hadv
  obtain hsame | hadv := htc
  · exact ⟨(congrArg Tc.min hsame).ge, absurd hsame⟩
  · exact ⟨(le_adv_min s.tc).trans (congrArg Tc.min hadv).ge, fun _ => hadv ▸ adv_valid s.tc⟩

/-- Settles O55: with TCV 1 each port shows its register, and a port of `WMIN` bits that holds MIN cuts nothing. -/
theorem observationOutputs : Obligations.ObservationOutputs := by
  intro wmin s hv hmin
  simp [tcMin, tcSec, tcFrm, bcdMin, bcdSec, bcdFrm, hv, Nat.mod_eq_of_lt hmin]

/-- Settles O56: the handshake outputs follow PHASE, the data outputs the beat on offer. -/
theorem channelOutputs : Obligations.ChannelOutputs := by
  intro s
  refine ⟨by simp [cmdReady], busy_iff, fun hp => ?_, fun hp => ?_, fun hp => ?_⟩
  · simp [snkKind, snkData, offeredBeat_trunc hp]
  · simp [snkKind, snkData, offeredBeat_zeros hp]
  · simp [snkKind, snkData, offeredBeat_sector hp]

end Sys2Proof.Machine
end

section
/-! PROOFS. The sink's content (20_memory.md R41, R44, R54): which edges write it, and what a run without
reset leaves in it. -/

namespace Sys2Proof.Machine

variable {s t : State}

/-- Settles O23: each arm of `exec` is a `whenReady`, which does not see a command outside IDLE. -/
theorem commandNotSeenUnlessReady : Obligations.CommandNotSeenUnlessReady := by
  intro i s hp
  cases i with
  | ldt | adv | enc | pregap | null => exact whenReady_not_idle s _ hp

/-! ## One edge -/

/-- An accepted command offers its beats only from the next edge on, so it leaves the sink (R17). -/
theorem Accepts.sink_eq {i : Instr} (h : Accepts s i t) : t.sink = s.sink := by
  cases h with
  | ldt | adv | enc | pregap | null | usage => rfl

/-- A beat answered `ok` takes effect in the sink (R41). -/
theorem beatOk_sink (hb : busy s = true) : (beatOk s).sink = sinkAfterBeat s := by
  obtain ⟨hp, e⟩ | ⟨hp, e⟩ | ⟨hp, -, e⟩ | ⟨hp, -, e⟩ := beatOk_cases hb <;> rw [e]
  · exact (sinkAfterBeat_eq s (offeredBeat_trunc hp)).symm
  · exact (sinkAfterBeat_eq s (offeredBeat_zeros hp)).symm
  · exact (sinkAfterBeat_eq s (offeredBeat_sector hp)).symm
  · exact (sinkAfterBeat_eq s (offeredBeat_sector hp)).symm

/-- Every edge leaves the sink or lets the beat on offer take effect; a withdrawn or failed beat may do
either (R43, R151). -/
theorem sink_kept_or_beat_taken (h : step s = .next t) : t.sink = s.sink ∨ t.sink = sinkAfterBeat s := by
  cases edgeTo_of_step h with
  | reset hr => exact (ite_eq_or_eq _ _ _).symm
  | still | illegal => exact .inl rfl
  | command hp ho hd ha => exact .inl ha.sink_eq
  | err hr hb => exact (ite_eq_or_eq _ _ _).symm
  | ok hr hb he hk => exact .inr (beatOk_sink (s := nextEdge s) hb)

/-- Settles O30: the edge takes the beat on offer or none, and a beat empties the sink or appends its byte. -/
theorem sinkChangesOnlyByTheOfferedBeat : Obligations.SinkChangesOnlyByTheOfferedBeat := by
  intro s t h
  obtain hkept | htaken := sink_kept_or_beat_taken h
  · exact .inl hkept
  · rw [htaken]
    obtain hnone | ⟨b, hbeat, htake⟩ := sinkAfterBeat_cases s
    · exact .inl hnone
    · cases b with
      | trunc => exact .inr (.inl ⟨hbeat, htake⟩)
      | byte v => exact .inr (.inr ⟨v, hbeat, htake⟩)

/-! ## A run without reset -/

/-- No reset in the next edges: none at the coming one, and none after it. -/
theorem resetFree_succ {k : Nat} (h : resetFree (k + 1) s) (ht : t.env = s.env.tail) :
    (currentPins s).rst = false ∧ resetFree k t := by
  unfold resetFree currentPins at *
  rw [ht]
  cases henv : s.env with
  | nil => simp [Pins.quiet]
  | cons p rest => simpa [henv] using h

/-- A run without reset that starts in HALT only consumes inputs (R137). -/
theorem run_halt (k : Nat) : ∀ s : State, s.phase = .halt → resetFree k s →
    run k s = .next { s with env := s.env.drop k, tick := s.tick + k } := by
  induction k with
  | zero => intro s _ _; rfl
  | succ k ih =>
    intro s hp hfree
    obtain ⟨hr, hrest⟩ := resetFree_succ (t := nextEdge s) hfree rfl
    rw [run_succ k (step_halt s hr hp), ih (nextEdge s) hp hrest]
    simp [nextEdge, Nat.add_assoc, Nat.add_comm 1]

/-- Without a beat on offer the sink keeps its content (R54 d). -/
theorem sink_kept_of_not_busy (h : step s = .next t) (hb : busy s = false) : t.sink = s.sink := by
  have hnone : offeredBeat s = none := by simpa [hb] using offeredBeat_isSome s
  simpa [sinkAfterBeat, hnone] using sink_kept_or_beat_taken h

/-- Without a beat on offer no beat is answered. -/
theorem answeredNow_of_not_busy (hb : busy s = false) : answeredNow s = [] := by
  simp [answeredNow, snkValid, hb]

/-- The beat answered `ok`, folded over the sink, is the offered beat's effect. -/
theorem foldBeats_answeredNow (hr : (currentPins s).rst = false) (hb : busy s = true)
    (he : (currentPins s).snkErr = false) (hk : (currentPins s).snkReady = true) :
    foldBeats (answeredNow s) s.sink = sinkAfterBeat s := by
  obtain ⟨b, hbeat⟩ := Option.isSome_iff_exists.1 ((offeredBeat_isSome s).trans hb)
  simp [answeredNow, hr, snkValid, hb, he, hk, hbeat, sinkAfterBeat, foldBeats]

/-- An edge without reset raises SINK, or changes the sink by exactly the beat answered `ok` at it (R54 e). -/
theorem sink_fault_or_fold (h : step s = .next t) (hr : (currentPins s).rst = false) :
    (t.phase = .halt ∧ t.fault = sinkCode) ∨ t.sink = foldBeats (answeredNow s) s.sink := by
  cases hb : busy s with
  | false =>
    rw [answeredNow_of_not_busy hb]
    exact .inr (sink_kept_of_not_busy h hb)
  | true =>
    rw [step_busy s hr hb] at h
    cases h
    unfold answerBeat
    split_ifs with he hk
    · exact .inl ⟨rfl, rfl⟩
    · rw [foldBeats_answeredNow hr hb (Bool.eq_false_iff.2 he) hk]
      exact .inr (beatOk_sink (s := nextEdge s) hb)
    · exact .inr (by simp [answeredNow, hk, foldBeats])

/-- Settles O31, by induction on the number of edges: an edge that raises SINK leaves HALT only by a reset, and every
other one folds the beat answered at it. -/
theorem sinkIsTheFoldOfAnsweredBeats : Obligations.SinkIsTheFoldOfAnsweredBeats := by
  intro k
  induction k with
  | zero =>
    intro s t _ hrun _
    cases hrun
    rfl
  | succ k ih =>
    intro s t hfree hrun hfault
    obtain ⟨u, hstep, henv, -⟩ := everyEdgeHasANextState s
    obtain ⟨hr, hrest⟩ := resetFree_succ hfree henv
    rw [run_succ k hstep] at hrun
    obtain ⟨hhalt, hsink⟩ | hfold := sink_fault_or_fold hstep hr
    · rw [run_halt k u hhalt hrest] at hrun
      cases hrun
      exact absurd hsink hfault
    · rw [ih u t hrest hrun hfault, answeredBeats_succ k hstep, hfold]
      exact List.foldl_append.symm

end Sys2Proof.Machine
end

section
/-! PROOFS. The layout of a sector (20_memory.md R45) and of a pregap region (R46). -/

namespace Sys2Proof.Machine

@[simp] theorem length_sector (t : Tc) : (sector t).length = 2352 := by simp [sector]

theorem getElem?_sector (t : Tc) {i : Nat} (hi : i < 2352) : (sector t)[i]? = some (sectorByte i t) := by
  simp [sector, hi]

/-- The payload of a sector (R22, R100). -/
theorem sectorByte_payload (t : Tc) {i : Nat} (hlo : 16 ≤ i) (hhi : i ≤ 2351) : sectorByte i t = 0x00#8 := by
  rw [sectorByte, if_neg (by omega), if_neg (by omega), if_neg (by omega), if_neg (by omega), if_neg (by omega),
    if_neg (by omega), if_neg (by omega), if_pos ⟨hlo, hhi⟩]

/-- A sector is its 16 bytes of sync pattern and header, and then the payload (R45). -/
theorem sector_eq (t : Tc) :
    sector t = (List.range 16).map (sectorByte · t) ++ List.replicate 2336 0x00#8 := by
  have hpayload : (List.range 2336).map (fun i => sectorByte (16 + i) t) = List.replicate 2336 0x00#8 := by
    refine List.eq_replicate_iff.2 ⟨by rw [List.length_map, List.length_range], fun b hb => ?_⟩
    obtain ⟨i, hi, rfl⟩ := List.mem_map.1 hb
    have hlt := List.mem_range.1 hi
    exact sectorByte_payload t (by omega) (by omega)
  calc sector t = (List.range (16 + 2336)).map (sectorByte · t) := rfl
    _ = (List.range 16).map (sectorByte · t) ++ (List.range 2336).map (fun i => sectorByte (16 + i) t) := by
      rw [List.range_add, List.map_append, List.map_map]
      rfl
    _ = _ := by rw [hpayload]

/-- Settles O38: offsets below 16 are read off one by one, the payload is constant. -/
theorem sectorLayout : Obligations.SectorLayout := by
  intro m s f
  refine ⟨length_sector _, ?_⟩
  rw [sector_eq]
  rfl

/-- `n` sectors fill `2352 * n` bytes. -/
theorem length_sectorsFrom (n : Nat) (t : Tc) : (sectorsFrom n t).length = 2352 * n := by
  induction n generalizing t with
  | zero => rfl
  | succ n ih => rw [sectorsFrom, List.length_append, length_sector, ih]; omega

/-- Sector `k` of a row of sectors has the timecode advanced `k` times (R111). -/
theorem getElem?_sectorsFrom {n k i : Nat} (hk : k < n) (hi : i < 2352) (t : Tc) :
    (sectorsFrom n t)[2352 * k + i]? = some (sectorByte i (advPow k t)) := by
  induction n generalizing k t with
  | zero => omega
  | succ n ih =>
    rw [sectorsFrom]
    cases k with
    | zero =>
      rw [List.getElem?_append_left (by simpa using hi)]
      simpa [advPow] using getElem?_sector t hi
    | succ k =>
      have hoffset : 2352 * (k + 1) + i - 2352 = 2352 * k + i := by omega
      rw [List.getElem?_append_right (by rw [length_sector]; omega), length_sector, hoffset]
      exact ih (by omega) (adv t)

/-- A pregap region with its two sizes written out (R46). -/
theorem pregapRegion_eq (t : Tc) : pregapRegion t = List.replicate 176400 0x00#8 ++ sectorsFrom 150 t := rfl

/-- Settles O40: the zeros come first, and the row of 150 sectors follows at offset 176400. -/
theorem pregapRegionLayout : Obligations.PregapRegionLayout := by
  intro t
  rw [pregapRegion_eq]
  refine ⟨?_, fun n hn => ?_, fun k i hk hi => ?_⟩
  · rw [List.length_append, List.length_replicate, length_sectorsFrom]
  · rw [List.getElem?_append_left (by rwa [List.length_replicate]), List.getElem?_replicate_of_lt hn]
  · rw [List.getElem?_append_right (by rw [List.length_replicate]; omega), List.length_replicate, Nat.add_assoc,
      Nat.add_sub_cancel_left, getElem?_sectorsFrom hk hi]

end Sys2Proof.Machine
end

section
/-! PROOFS. Decoder and encoder (30_encoding.md R61 to R65): the decoder's branches said once, and each command's one word. -/

namespace Sys2Proof

variable {cw : Word}

/-- R65's list of the illegal words, by their fields. -/
def IllegalListed (cw : Word) : Prop :=
  opField cw = 0x0#4 ∨ 6 ≤ (opField cw).toNat ∨
    ((opField cw = 0x2#4 ∨ opField cw = 0x3#4 ∨ opField cw = 0x4#4) ∧ lowField cw ≠ 0#28) ∨
    (opField cw = 0x1#4 ∧ zeroFieldT cw ≠ 0#4)

/-- An opcode of no row is 0 or at least 6. -/
theorem opcode_unassigned (op : BitVec 4) (h1 : op ≠ 0x1#4) (h2 : op ≠ 0x2#4) (h3 : op ≠ 0x3#4) (h4 : op ≠ 0x4#4)
    (h5 : op ≠ 0x5#4) : op = 0x0#4 ∨ 6 ≤ op.toNat := by
  bv_omega

/-- A word is put together from its fields, once their values are known. -/
theorem encodeLow_eq_of_fields {op : BitVec 4} {low : BitVec 28} (hop : opField cw = op) (hlow : lowField cw = low) :
    encodeLow op low = cw := by
  rw [← hop, ← hlow, encodeLow_fields]

/-- A format Z word is the command of its opcode, or its zero field is not 0 and it is listed. -/
theorem decodeZ_cases {i : Instr} (hi : encode i = encodeLow (opField cw) 0#28)
    (hop : opField cw = 0x2#4 ∨ opField cw = 0x3#4 ∨ opField cw = 0x4#4) :
    (decodeZ cw i = .instr i ∧ encode i = cw) ∨ (∃ why, decodeZ cw i = .illegal why) ∧ IllegalListed cw := by
  unfold decodeZ
  split
  · next hlow => exact .inl ⟨rfl, hi.trans (encodeLow_eq_of_fields rfl hlow)⟩
  · next hlow => exact .inr ⟨⟨_, rfl⟩, .inr (.inr (.inl ⟨hop, hlow⟩))⟩

/-- Everything the decoder can answer: a command whose word this is, or illegal for a word of R65's list. -/
theorem decode_cases (cw : Word) :
    (∃ i, decode cw = .instr i ∧ encode i = cw) ∨ (∃ why, decode cw = .illegal why) ∧ IllegalListed cw := by
  unfold decode
  split_ifs with h1 hz h2 h3 h4 h5
  · exact .inl ⟨_, rfl, encodeLow_eq_of_fields h1 (lowField_of_zeroFieldT cw hz)⟩
  · exact .inr ⟨⟨_, rfl⟩, .inr (.inr (.inr ⟨h1, hz⟩))⟩
  · exact (decodeZ_cases (by rw [h2, encode]) (.inl h2)).imp_left fun h => ⟨_, h⟩
  · exact (decodeZ_cases (by rw [h3, encode]) (.inr (.inl h3))).imp_left fun h => ⟨_, h⟩
  · exact (decodeZ_cases (by rw [h4, encode]) (.inr (.inr h4))).imp_left fun h => ⟨_, h⟩
  · exact .inl ⟨_, rfl, encodeLow_eq_of_fields h5 rfl⟩
  · refine .inr ⟨⟨_, rfl⟩, ?_⟩
    exact (opcode_unassigned _ h1 h2 h3 h4 h5).imp_right .inl

/-- Settles O1: the decoder reads back the opcode and the operand fields that `encodeLow` put in place. -/
theorem decodeOfEncode : Obligations.DecodeOfEncode := by
  intro i
  cases i with
  | ldt mm ss ff =>
    obtain ⟨hz, hmm, hss, hff⟩ := fields_of_timecodeOperand 0x1#4 mm ss ff
    simp [decode, encode, hz, hmm, hss, hff]
  | adv | enc | pregap => simp [decode, decodeZ, encode]
  | null count => simp [decode, encode]

/-- Settles O2: a decoded word is its opcode over the low bits the decoder has read. -/
theorem encodeOfDecode : Obligations.EncodeOfDecode := by
  intro cw i h
  obtain ⟨j, hj, hcw⟩ | ⟨⟨why, hw⟩, -⟩ := decode_cases cw
  · cases hj.symm.trans h
    exact hcw
  · cases hw.symm.trans h

/-- No command's word is on R65's list. -/
theorem not_illegalListed_encode (i : Instr) : ¬IllegalListed (encode i) := by
  cases i with
  | ldt mm ss ff =>
    obtain ⟨hz, -⟩ := fields_of_timecodeOperand 0x1#4 mm ss ff
    simp [IllegalListed, encode, hz]
  | adv | enc | pregap | null => simp [IllegalListed, encode]

/-- Settles O4: a listed word is no command's, and the decoder answers illegal for listed words only. -/
theorem illegalWordsAreThoseListed : Obligations.IllegalWordsAreThoseListed := by
  intro cw
  change (∃ why, decode cw = .illegal why) ↔ IllegalListed cw
  obtain ⟨i, hi, rfl⟩ | ⟨hw, hl⟩ := decode_cases cw
  · simp [hi, not_illegalListed_encode]
  · exact iff_of_true hw hl

end Sys2Proof
end

section
/-! PROOFS. The opcode map (30_encoding.md R63): selecting a row by mask and pattern is decoding to one of its commands. -/

namespace Sys2Proof

variable {cw mask pattern : Word}

/-- Where the mask covers the opcode, a selected word has the pattern's opcode. -/
theorem opField_of_masked (h : cw &&& mask = pattern) (hm : opField mask = BitVec.allOnes 4) :
    opField cw = opField pattern :=
  calc opField cw = opField cw &&& opField mask := by rw [hm, BitVec.and_allOnes]
    _ = opField (cw &&& mask) := BitVec.extractLsb'_and.symm
    _ = opField pattern := by rw [h]

/-- Where the mask covers the zero field of format T, a selected word has the pattern's zero field. -/
theorem zeroFieldT_of_masked (h : cw &&& mask = pattern) (hm : zeroFieldT mask = BitVec.allOnes 4) :
    zeroFieldT cw = zeroFieldT pattern :=
  calc zeroFieldT cw = zeroFieldT cw &&& zeroFieldT mask := by rw [hm, BitVec.and_allOnes]
    _ = zeroFieldT (cw &&& mask) := BitVec.extractLsb'_and.symm
    _ = zeroFieldT pattern := by rw [h]

/-- Every command's word selects the command's row. -/
theorem selects_encode (i : Instr) : (rowOf i).selects (encode i) := by
  cases i with
  | ldt mm ss ff => exact Laws.RowOfWord.ldt mm ss ff
  | adv => exact Laws.RowOfWord.adv
  | enc => exact Laws.RowOfWord.enc
  | pregap => exact Laws.RowOfWord.pregap
  | null count => exact Laws.RowOfWord.null count

/-- A row without operands is selected by its pattern only. -/
theorem eq_pattern_of_selects {r : OpRow} (h : r.selects cw) (hm : r.mask = BitVec.allOnes 32) : cw = r.pattern := by
  rwa [OpRow.selects, hm, BitVec.and_allOnes] at h

/-- A word that selects a command's row is the word of a command of that row. -/
theorem encode_of_selects {i : Instr} (h : (rowOf i).selects cw) : ∃ j, encode j = cw ∧ rowOf j = rowOf i := by
  cases i with
  | ldt mm ss ff =>
    have h' : cw &&& 0xFF000000#32 = 0x10000000#32 := h
    have hop : opField cw = 0x1#4 := (opField_of_masked h' (by decide)).trans (by decide)
    have hz : zeroFieldT cw = 0#4 := (zeroFieldT_of_masked h' (by decide)).trans (by decide)
    exact ⟨.ldt (mmField cw) (ssField cw) (ffField cw),
      encodeLow_eq_of_fields hop (lowField_of_zeroFieldT cw hz), rfl⟩
  | adv => exact ⟨.adv, (eq_pattern_of_selects h rfl).symm, rfl⟩
  | enc => exact ⟨.enc, (eq_pattern_of_selects h rfl).symm, rfl⟩
  | pregap => exact ⟨.pregap, (eq_pattern_of_selects h rfl).symm, rfl⟩
  | null count =>
    have h' : cw &&& 0xF0000000#32 = 0x50000000#32 := h
    have hop : opField cw = 0x5#4 := (opField_of_masked h' (by decide)).trans (by decide)
    exact ⟨.null (lowField cw), encodeLow_eq_of_fields hop rfl, rfl⟩

/-- Mask and pattern of a command's row select the words that decode to a command of the row. -/
theorem selects_rowOf_iff (cw : Word) (i : Instr) :
    (rowOf i).selects cw ↔ ∃ j, decode cw = .instr j ∧ rowOf j = rowOf i := by
  constructor
  · intro h
    obtain ⟨j, rfl, hj⟩ := encode_of_selects h
    exact ⟨j, decodeOfEncode j, hj⟩
  · rintro ⟨j, hd, hj⟩
    rw [← hj, ← encodeOfDecode cw j hd]
    exact selects_encode j

/-- The map holds the rows of the commands and no others. -/
theorem mem_opcodeMap_iff {r : OpRow} : r ∈ opcodeMap ↔ ∃ i, rowOf i = r := by
  constructor
  · intro h
    simp only [opcodeMap, List.mem_cons, List.not_mem_nil, or_false] at h
    obtain h | h | h | h | h := h <;> exact ⟨_, h.symm⟩
  · rintro ⟨i, rfl⟩
    cases i <;> simp [opcodeMap, rowOf]

/-- Settles O3: rows are selected by decoding, and the decoder has one answer for a word. -/
theorem wordsSelectTheirRow : Obligations.WordsSelectTheirRow := by
  have hsel : ∀ (cw : Word), ∀ r ∈ opcodeMap, r.selects cw ↔ ∃ i, decode cw = .instr i ∧ rowOf i = r := by
    intro cw r hr
    obtain ⟨i, rfl⟩ := mem_opcodeMap_iff.1 hr
    exact selects_rowOf_iff cw i
  refine ⟨rfl, hsel, fun cw r hr r' hr' h h' => ?_, fun cw hnone => ?_⟩
  · obtain ⟨i, hi, rfl⟩ := (hsel cw r hr).1 h
    obtain ⟨j, hj, rfl⟩ := (hsel cw r' hr').1 h'
    cases hi.symm.trans hj
    rfl
  · obtain ⟨i, -, rfl⟩ | ⟨hw, -⟩ := decode_cases cw
    · exact absurd (selects_encode i) (hnone _ (mem_opcodeMap_iff.2 ⟨i, rfl⟩))
    · exact hw

end Sys2Proof
end

section
/-! PROOFS. The illegal word at a ready block (30_encoding.md R65), and the spec's own words. -/

namespace Sys2Proof.Machine

/-- A block that is not busy offers no beat. -/
theorem offeredBeat_of_not_busy {s : State} (hb : busy s = false) : offeredBeat s = none := by
  simpa [hb] using offeredBeat_isSome s

/-- An illegal word at a ready block raises USAGE, whichever reason makes it illegal. -/
theorem offerCommand_illegal {cw : Word} {why : IllegalWord} {s : State} (hp : s.phase = .idle)
    (hd : decode cw = .illegal why) : offerCommand cw s = .next (raiseFault usageCode s) := by
  rw [offerCommand, hd]
  exact whenReady_idle s _ hp

/-- Settles O5: a listed word is illegal, so the edge raises USAGE; neither IDLE nor HALT offers a beat. -/
theorem illegalWordRaisesUsage : Obligations.IllegalWordRaisesUsage := by
  rintro cw s hl hp ⟨hr, hv, rfl⟩
  obtain ⟨why, hd⟩ := (illegalWordsAreThoseListed _).2 hl
  refine ⟨raiseFault usageCode (nextEdge s), ?_, rfl, offeredBeat_of_not_busy (busy_false_of_idle s hp),
    offeredBeat_of_not_busy (busy_false_of_halt _ rfl)⟩
  rw [step_idle_offer s hr hp hv, offerCommand_illegal (s := nextEdge s) hp hd]

/-- Settles O6: the decoder evaluates each of the words. -/
theorem specWordsDecode : Obligations.SpecWordsDecode := by
  unfold Obligations.SpecWordsDecode
  decide

end Sys2Proof.Machine
end

section
/-! PROOFS. The assembler's ranges and pseudo-operations (30_encoding.md R66, R67). -/

namespace Sys2Proof.Machine

/-- A byte is a timecode operand in range. -/
@[simp] theorem byteOperand_toNat (d : BitVec 8) : Asm.byteOperand d.toNat = true :=
  decide_eq_true (Nat.le_of_lt_succ d.isLt)

/-- 28 bits are a count operand in range. -/
@[simp] theorem countOperand_toNat (count : BitVec 28) : Asm.countOperand count.toNat = true :=
  decide_eq_true (Nat.le_of_lt_succ count.isLt)

/-- A line has words exactly when its operands are in range. -/
theorem assemble_isSome_iff (a : Asm) : (assemble a).isSome ↔ a.wellFormed = true := by
  unfold assemble
  split <;> simp [*]

/-- The words of a line in range are those of its expansion. -/
theorem assemble_of_wellFormed {a : Asm} (h : a.wellFormed = true) :
    assemble a = some ((expandAsm a).map encode) := if_pos h

/-- Settles O7: the ranges are the widths of the fields, so a field's own value comes back from its number. -/
theorem assemblerChecksRanges : Obligations.AssemblerChecksRanges := by
  refine ⟨fun mm ss ff => ?_, fun count => ?_, fun mm ss ff => ?_, fun count => ?_, rfl, rfl, rfl⟩
  · rw [assemble_isSome_iff]
    simp [Asm.wellFormed, Asm.byteOperand, and_assoc]
  · rw [assemble_isSome_iff]
    simp [Asm.wellFormed, Asm.countOperand]
  · rw [assemble_of_wellFormed (by simp [Asm.wellFormed])]
    simp [expandAsm]
  · rw [assemble_of_wellFormed (by simp [Asm.wellFormed])]
    simp [expandAsm]

/-- Settles O8: PREGAP.D expands to LDT and PREGAP, and PREGAP.A to the NULL of 352800. -/
theorem pseudoOperationsExpand : Obligations.PseudoOperationsExpand := by
  refine ⟨fun mm ss ff => ?_, by decide, rfl⟩
  rw [assemble_of_wellFormed (by simp [Asm.wellFormed])]
  simp [expandAsm]

end Sys2Proof.Machine
end

section
/-! PROOFS. The timecode advancer (40_timecode.md): the carry chain case by case (R80, R83), the frame count it
counts, and the acceptance of LDT and ADV (R81, R82). -/

namespace Sys2Proof.Machine

variable {t u : Tc}

/-! ## The four cases of the carry chain (R83, laws 2 to 5) -/

/-- No carry. -/
theorem adv_of_no_carry (hf : t.frm ≤ 73) (hs : t.sec ≤ 59) : adv t = ⟨t.min, t.sec, t.frm + 1⟩ := by
  have hfrm : ¬t.frm + 1 > 74 := by omega
  have hsec : ¬t.sec > 59 := by omega
  simp [adv_eq, hfrm, hsec]

/-- The frame carries, the second does not. -/
theorem adv_of_frm_carry (hf : 74 ≤ t.frm) (hs : t.sec ≤ 58) : adv t = ⟨t.min, t.sec + 1, 0⟩ := by
  have hfrm : t.frm + 1 > 74 := by omega
  have hsec : ¬t.sec + 1 > 59 := by omega
  simp [adv_eq, hfrm, hsec]

/-- The frame carries and makes the second carry. -/
theorem adv_of_both_carry (hf : 74 ≤ t.frm) (hs : 59 ≤ t.sec) : adv t = ⟨t.min + 1, 0, 0⟩ := by
  have hfrm : t.frm + 1 > 74 := by omega
  have hsec : t.sec + 1 > 59 := by omega
  simp [adv_eq, hfrm, hsec]

/-- A second out of range carries although the frame does not: the stages are sequential (R80). -/
theorem adv_of_sec_out_of_range (hf : t.frm ≤ 73) (hs : 60 ≤ t.sec) : adv t = ⟨t.min + 1, 0, t.frm + 1⟩ := by
  have hfrm : ¬t.frm + 1 > 74 := by omega
  have hsec : t.sec > 59 := by omega
  simp [adv_eq, hfrm, hsec]

/-- The four cases meet every timecode. -/
theorem adv_cases (t : Tc) :
    (t.frm ≤ 73 ∧ t.sec ≤ 59 ∧ adv t = ⟨t.min, t.sec, t.frm + 1⟩) ∨
    (74 ≤ t.frm ∧ t.sec ≤ 58 ∧ adv t = ⟨t.min, t.sec + 1, 0⟩) ∨
    (74 ≤ t.frm ∧ 59 ≤ t.sec ∧ adv t = ⟨t.min + 1, 0, 0⟩) ∨
    (t.frm ≤ 73 ∧ 60 ≤ t.sec ∧ adv t = ⟨t.min + 1, 0, t.frm + 1⟩) := by
  obtain hf | hf := Nat.lt_or_ge t.frm 74
  · obtain hs | hs := Nat.lt_or_ge t.sec 60
    · exact .inl ⟨by omega, by omega, adv_of_no_carry (by omega) (by omega)⟩
    · exact .inr (.inr (.inr ⟨by omega, hs, adv_of_sec_out_of_range (by omega) hs⟩))
  · obtain hs | hs := Nat.lt_or_ge t.sec 59
    · exact .inr (.inl ⟨hf, by omega, adv_of_frm_carry hf (by omega)⟩)
    · exact .inr (.inr (.inl ⟨hf, hs, adv_of_both_carry hf hs⟩))

/-- The minute is kept or one more (R83, law 6). -/
theorem adv_min_cases (t : Tc) : (adv t).min = t.min ∨ (adv t).min = t.min + 1 := by
  obtain ⟨-, -, e⟩ | ⟨-, -, e⟩ | ⟨-, -, e⟩ | ⟨-, -, e⟩ := adv_cases t <;> simp [e]

/-- The frame always changes: to one more, or from at least 74 to 0. -/
theorem adv_frm_ne (t : Tc) : (adv t).frm ≠ t.frm := by
  obtain ⟨hf, -, e⟩ | ⟨hf, -, e⟩ | ⟨hf, -, e⟩ | ⟨hf, -, e⟩ := adv_cases t <;> rw [e] <;> dsimp only <;> omega

/-- Settles O33: the four cases, and what they leave of each component. -/
theorem advLaws : Obligations.AdvLaws := fun m s f =>
  ⟨adv_of_no_carry (t := ⟨m, s, f⟩), adv_of_frm_carry (t := ⟨m, s, f⟩), adv_of_both_carry (t := ⟨m, s, f⟩),
    adv_of_sec_out_of_range (t := ⟨m, s, f⟩), adv_valid _, adv_min_cases _, fun h => adv_frm_ne _ (congrArg Tc.frm h)⟩

/-! ## The nested reading, which R80 excludes -/

/-- Where the frame carries, the two readings agree. -/
theorem advReading_nested_of_carry (hf : 74 ≤ t.frm) : advReading true t = adv t := by
  have hfrm : t.frm + 1 > 74 := by omega
  simp [adv_eq, advReading, hfrm]

/-- Where the frame does not carry, the nested reading leaves the second alone. -/
theorem advReading_nested_of_no_carry (hf : t.frm ≤ 73) : advReading true t = ⟨t.min, t.sec, t.frm + 1⟩ := by
  have hfrm : ¬t.frm + 1 > 74 := by omega
  simp [advReading, hfrm]

/-- The readings differ exactly when the second is out of range and the frame does not carry. -/
theorem advReading_nested_ne_iff (t : Tc) : advReading true t ≠ adv t ↔ t.sec > 59 ∧ t.frm + 1 ≤ 74 := by
  obtain ⟨hf, hs, e⟩ | ⟨hf, -, -⟩ | ⟨hf, -, -⟩ | ⟨hf, hs, e⟩ := adv_cases t
  · exact iff_of_false (not_not_intro ((advReading_nested_of_no_carry hf).trans e.symm)) (by omega)
  · exact iff_of_false (not_not_intro (advReading_nested_of_carry hf)) (by omega)
  · exact iff_of_false (not_not_intro (advReading_nested_of_carry hf)) (by omega)
  · rw [advReading_nested_of_no_carry hf, e]
    exact iff_of_true (by simp) (by omega)

/-- Settles O32: each stage's test is decided on its own, the second's on the value the frame's stage left. -/
theorem advIsTheSequentialCarryChain : Obligations.AdvIsTheSequentialCarryChain := by
  refine ⟨fun m s f => ?_, advReading_nested_ne_iff, fun m s f hs hf => ⟨?_, ?_⟩⟩
  · rw [adv_eq]
    by_cases hfrm : f + 1 > 74
    · by_cases hsec : s + 1 > 59 <;> simp [hfrm, hsec]
    · by_cases hsec : s > 59 <;> simp [hfrm, hsec]
  · exact adv_of_sec_out_of_range (t := ⟨m, s, f⟩) (Nat.le_of_succ_le_succ hf) hs
  · exact advReading_nested_of_no_carry (t := ⟨m, s, f⟩) (Nat.le_of_succ_le_succ hf)

/-! ## Counting frames (R83, law 7) -/

/-- Valid timecodes are the mixed-radix digits of their frame counts. -/
theorem eq_of_frameCount_eq (ht : t.Valid) (hu : u.Valid) (h : frameCount t = frameCount u) : t = u := by
  obtain ⟨m, s, f⟩ := t
  obtain ⟨m', s', f'⟩ := u
  simp only [Tc.Valid, frameCount, Tc.mk.injEq] at ht hu h ⊢
  omega

/-- One advance of a valid timecode is one frame. -/
theorem frameCount_adv (ht : t.Valid) : frameCount (adv t) = frameCount t + 1 := by
  obtain ⟨hsec, hfrm⟩ := ht
  obtain ⟨-, -, e⟩ | ⟨hf, -, e⟩ | ⟨hf, hs, e⟩ | ⟨-, hs, -⟩ := adv_cases t
  · rw [e]; rfl
  · rw [e]; simp only [frameCount]; omega
  · rw [e]; simp only [frameCount]; omega
  · omega

/-- Advances keep a timecode valid. -/
theorem advPow_valid (ht : t.Valid) (k : Nat) : (advPow k t).Valid := by
  induction k generalizing t with
  | zero => exact ht
  | succ k ih => exact ih (adv_valid t)

/-- `k` advances of a valid timecode are `k` frames. -/
theorem frameCount_advPow (ht : t.Valid) (k : Nat) : frameCount (advPow k t) = frameCount t + k := by
  induction k generalizing t with
  | zero => rfl
  | succ k ih => rw [advPow, ih (adv_valid t), frameCount_adv ht]; omega

/-- The valid timecode `k` frames later is the one `k` advances lead to. -/
theorem advPow_eq_of_frameCount {k : Nat} (ht : t.Valid) (hu : u.Valid) (h : frameCount u = frameCount t + k) :
    advPow k t = u :=
  eq_of_frameCount_eq (advPow_valid ht k) hu ((frameCount_advPow ht k).trans h.symm)

/-- Settles O34: the frame count tells valid timecodes apart, so each claim is a sum of frames. -/
theorem advCountsFrames : Obligations.AdvCountsFrames := by
  intro t ht
  have ⟨hsec, hfrm⟩ := ht
  refine ⟨fun k => ⟨frameCount_advPow ht k, advPow_valid ht k⟩, fun hs => ?_, fun hs => ?_, ?_⟩
  · exact advPow_eq_of_frameCount ht ⟨Nat.succ_le_succ hs, hfrm⟩ (by simp only [frameCount]; omega)
  · exact advPow_eq_of_frameCount ht ⟨Nat.zero_le _, hfrm⟩ (by simp only [frameCount]; omega)
  · exact advPow_eq_of_frameCount ht ⟨hsec, hfrm⟩ (by simp only [frameCount]; omega)

/-! ## The commands LDT and ADV -/

/-- Settles O17: a ready block accepts the command, and R81's three writes are unchecked. -/
theorem ldtCompletes : Obligations.LdtCompletes := fun _ _ _ s hp => whenReady_idle s _ hp

/-- Settles O18: the advanced triple is valid, so it reads back from the registers it was written to. -/
theorem advCompletes : Obligations.AdvCompletes := by
  intro s hp hv
  refine ⟨setTc (adv s.tc) s, ?_, tc_setTc_adv s.tc s, rfl⟩
  rw [← needTimecode_loaded s (setTc (adv s.tc) s) hv]
  exact whenReady_idle s _ hp

end Sys2Proof.Machine
end

section
/-! PROOFS. The BCD packer (41_bcd_packer.md): the packed byte by its nibbles (R91), and the unpacking that tells two
packed bytes apart (R92, R93). -/

namespace Sys2Proof.Machine

variable {d e : Nat}

/-! ## The formula before the cut to a byte (R90; R93, laws 1 and 2) -/

theorem bcdPack_eq_add (d : Nat) : bcdPack d = d + 6 * (d / 10) := by
  rw [bcdPack]
  omega

theorem bcdPack_lt_bcdPack (h : d < e) : bcdPack d < bcdPack e := by
  rw [bcdPack_eq_add, bcdPack_eq_add]
  omega

/-- The formula fits a byte exactly up to 159. -/
theorem bcdPack_lt_256_iff (d : Nat) : bcdPack d < 256 ↔ d ≤ 159 := by
  rw [bcdPack_eq_add]
  omega

/-! ## The byte and its nibbles (R91) -/

theorem toNat_bcd8 (d : Nat) : (bcd8 d).toNat = bcdPack d % 256 := BitVec.toNat_ofNat ..

/-- Nothing is cut where the formula fits a byte. -/
theorem toNat_bcd8_of_le (h : d ≤ 159) : (bcd8 d).toNat = bcdPack d :=
  (toNat_bcd8 d).trans (Nat.mod_eq_of_lt ((bcdPack_lt_256_iff d).2 h))

/-- The closed form: the ones digit never carries into the high nibble, so the cut falls on the tens count alone. -/
theorem toNat_bcd8_nibbles (d : Nat) : (bcd8 d).toNat = d / 10 % 16 * 16 + d % 10 := by
  rw [toNat_bcd8, bcdPack]
  omega

theorem bcd8_highNibble (d : Nat) : ((bcd8 d).extractLsb' 4 4).toNat = d / 10 % 16 := by
  rw [BitVec.extractLsb'_toNat, Nat.shiftRight_eq_div_pow, toNat_bcd8_nibbles]
  omega

theorem bcd8_lowNibble (d : Nat) : ((bcd8 d).extractLsb' 0 4).toNat = d % 10 := by
  rw [BitVec.extractLsb'_toNat, Nat.shiftRight_zero, toNat_bcd8_nibbles]
  omega

theorem bcd8_eq_append (d : Nat) : bcd8 d = BitVec.ofNat 4 (d / 10 % 16) ++ BitVec.ofNat 4 (d % 10) := by
  apply BitVec.eq_of_toNat_eq
  rw [toNat_bcd8_nibbles, toNat_append_eq, BitVec.toNat_ofNat, BitVec.toNat_ofNat]
  omega

/-! ## Unpacking (R92), and the packed bytes told apart by it (R93) -/

/-- Unpacking gives back the number up to a multiple of 160, the first number whose tens count no nibble holds. -/
theorem bcdUnpack_bcd8 (d : Nat) : bcdUnpack (bcd8 d) = d % 160 := by
  rw [bcdUnpack, bcd8_highNibble, bcd8_lowNibble]
  omega

theorem bcdUnpack_bcd8_of_le (h : d ≤ 159) : bcdUnpack (bcd8 d) = d :=
  (bcdUnpack_bcd8 d).trans (Nat.mod_eq_of_lt (Nat.lt_succ_of_le h))

/-- Two numbers pack to one byte exactly when they agree modulo 160. -/
theorem bcd8_eq_bcd8_iff (d e : Nat) : bcd8 d = bcd8 e ↔ d % 160 = e % 160 := by
  constructor
  · intro h
    rw [← bcdUnpack_bcd8, ← bcdUnpack_bcd8, h]
  · intro h
    apply BitVec.eq_of_toNat_eq
    rw [toNat_bcd8_nibbles, toNat_bcd8_nibbles]
    omega

theorem bcd8_add_160 (d : Nat) : bcd8 (d + 160) = bcd8 d := (bcd8_eq_bcd8_iff ..).2 (Nat.add_mod_right d 160)

theorem bcd8_inj_of_le (hd : d ≤ 159) (he : e ≤ 159) (h : bcd8 d = bcd8 e) : d = e := by
  rw [← bcdUnpack_bcd8_of_le hd, h, bcdUnpack_bcd8_of_le he]

/-- `0x00` is the packed byte of 0. -/
theorem bcd8_eq_zero_iff (d : Nat) : bcd8 d = 0x00#8 ↔ 160 ∣ d :=
  (bcd8_eq_bcd8_iff d 0).trans Nat.dvd_iff_mod_eq_zero.symm

/-- Settles O36: up to 159 nothing is cut, and the byte, `d + 6 * (d / 10)`, is bounded with the tens count. -/
theorem packedByteNibbles : Obligations.PackedByteNibbles := by
  intro d
  have hbyte (h : d ≤ 159) : (bcd8 d).toNat = d + 6 * (d / 10) := (toNat_bcd8_of_le h).trans (bcdPack_eq_add d)
  have hfit := bcdPack_lt_256_iff d
  refine ⟨rfl, toNat_bcd8 d, bcd8_eq_append d, bcd8_add_160 d, fun h => ⟨toNat_bcd8_of_le h, ?_⟩, fun h => ?_,
    fun hlo hhi => ?_, fun h => ?_⟩
  · rw [bcd8_highNibble]
    omega
  · rw [hbyte (by omega)]
    omega
  · rw [hbyte hhi]
    omega
  · omega

/-- Settles O37: all but the two laws of the formula follow from what unpacking gives back, `d % 160`. -/
theorem bcdLaws : Obligations.BcdLaws :=
  ⟨fun _ _ => bcdPack_lt_bcdPack, bcdPack_eq_add, fun _ _ => bcd8_inj_of_le, bcd8_eq_zero_iff,
    fun _ => bcdUnpack_bcd8_of_le, by rw [bcdUnpack_bcd8]; decide⟩

end Sys2Proof.Machine
end

section
/-! PROOFS. Operations under a sink that answers every beat `ok`, however late (20_memory.md R43): the delays drop
out of the run, and what is left is `beatOk` iterated. -/

namespace Sys2Proof.Machine

variable {s : State}

/-- Without a beat on offer there is nothing to answer (R23). -/
theorem beatOk_of_not_busy (hb : busy s = false) : beatOk s = s := by
  cases hp : s.phase with
  | idle | halt => simp [beatOk, hp]
  | trunc => simp [busy_of_trunc hp] at hb
  | zeros => simp [busy_of_zeros hp] at hb
  | sector => simp [busy_of_sector hp] at hb

/-- An answered beat neither reads nor writes the inputs to come and the edge counter. -/
theorem beatOk_commute_nextEdge : Function.Commute beatOk nextEdge := by
  intro s
  cases hb : busy s with
  | false => rw [beatOk_of_not_busy hb, beatOk_of_not_busy (s := nextEdge s) hb]
  | true =>
    obtain ⟨hp, e⟩ | ⟨hp, e⟩ | ⟨hp, hi, e⟩ | ⟨hp, hi, e⟩ := beatOk_cases hb <;> rw [e]
    · exact beatOk_trunc (nextEdge s) hp
    · exact beatOk_zeros (nextEdge s) hp
    · exact beatOk_sector_inner (nextEdge s) hp hi
    · exact beatOk_sector_end (s := nextEdge s) hp hi

/-- The first edge of `answersOk` answers the first of the beats, or leaves it on offer. -/
theorem answersOk_cons {p : Pins} {ps : List Pins} {n : Nat} (h : answersOk (p :: ps) n = true) :
    p.rst = false ∧ p.snkErr = false ∧
      ((p.snkReady = true ∧ ∃ m, n = m + 1 ∧ answersOk ps m = true) ∨
        (p.snkReady = false ∧ 0 < n ∧ answersOk ps n = true)) := by
  cases n with
  | zero => simp [answersOk] at h
  | succ m => cases hk : p.snkReady <;> simpa [answersOk, hk, and_assoc] using h

/-- Edges that answer `n` beats `ok`, each on offer when its turn comes, make the move of an answered beat `n` times;
the delays show in the edge counter alone. -/
theorem run_answersOk {ps rest : List Pins} {n : Nat} (hans : answersOk ps n = true) (henv : s.env = ps ++ rest)
    (hbusy : ∀ k < n, busy (beatOk^[k] s) = true) :
    run ps.length s = .next { beatOk^[n] s with env := rest, tick := s.tick + ps.length } := by
  induction ps generalizing n s with
  | nil =>
    obtain rfl : n = 0 := by simpa [answersOk] using hans
    obtain rfl : s.env = rest := henv
    rfl
  | cons p ps ih =>
    have hcur : currentPins s = p := by simp [currentPins, henv]
    have htail : (nextEdge s).env = ps ++ rest := by simp [henv]
    have htick : s.tick + 1 + ps.length = s.tick + (ps.length + 1) := by omega
    have hiter (k : Nat) : beatOk^[k] (nextEdge s) = nextEdge (beatOk^[k] s) :=
      beatOk_commute_nextEdge.iterate_left k s
    obtain ⟨hr, he, ⟨hk, m, rfl, hrest⟩ | ⟨hk, hn, hrest⟩⟩ := answersOk_cons hans
    · have hb : busy s = true := hbusy 0 m.succ_pos
      obtain ⟨-, -, henv', htick'⟩ := beatOk_frame (s := nextEdge s) hb
      rw [List.length_cons, run_succ _ (step_ok hb (hcur ▸ hr) (hcur ▸ he) (hcur ▸ hk)),
        ih hrest (henv'.trans htail) fun k hk => (congrArg busy (hiter (k + 1))).trans (hbusy (k + 1) (by omega)),
        ← Function.iterate_succ_apply, hiter, htick', nextEdge_tick, htick]
      rfl
    · have hb : busy s = true := hbusy 0 hn
      rw [List.length_cons, run_succ _ (step_unanswered hb (hcur ▸ hr) (hcur ▸ he) (hcur ▸ hk)),
        ih hrest htail fun k hk => (congrArg busy (hiter k)).trans (hbusy k hk), hiter, nextEdge_tick, htick]
      rfl

/-- A whole operation: its command is accepted at the first edge, and its beats are answered at the others. -/
theorem run_command {t : State} {p : Pins} {ps rest : List Pins} {cw : Word} {i : Instr} {n : Nat}
    (hp : s.phase = .idle) (hoffer : p.Offers cw) (hd : decode cw = .instr i) (henv : s.env = p :: ps ++ rest)
    (hx : exec i (nextEdge s) = .next t) (hans : answersOk ps n = true)
    (hbusy : ∀ k < n, busy (beatOk^[k] t) = true) :
    run (1 + ps.length) s = .next { beatOk^[n] t with env := rest, tick := s.tick + (1 + ps.length) } := by
  have hcur : currentPins s = p := by simp [currentPins, henv]
  have hstep : step s = .next t := (stepRunsTheDecodedCommand cw i s hp (hcur.symm ▸ hoffer) hd).trans hx
  obtain ⟨⟨-, henv', htick⟩, -⟩ := commandFrame i (nextEdge s) t hx
  have htail : t.env = ps ++ rest := by rw [henv', nextEdge_env, henv, List.cons_append, List.tail_cons]
  have hbeats := run_answersOk hans htail hbusy
  rw [htick, nextEdge_tick, Nat.add_assoc] at hbeats
  rw [← hbeats, Nat.add_comm, run_succ _ hstep]

/-! ## The beats of one sector -/

theorem take_sector_succ (t : Tc) {n : Nat} (hn : n < 2352) :
    (sector t).take (n + 1) = (sector t).take n ++ [sectorByte n t] := by
  rw [List.take_add_one, getElem?_sector t hn, Option.toList_some]

/-- The state in which the first `n` bytes of a sector that began in `s` are in the sink (R17). -/
def afterSectorBytes (n : Nat) (s : State) : State :=
  { s with sink := s.sink ++ (sector s.tc).take n, bidx := BitVec.ofNat 12 n }

theorem toNat_bidx_afterSectorBytes {n : Nat} (hn : n < 2352) (s : State) : (afterSectorBytes n s).bidx.toNat = n :=
  (BitVec.toNat_ofNat ..).trans (Nat.mod_eq_of_lt (by omega))

/-- The answered beats of a sector that are not its last (R17). -/
theorem beatOk_iterate_sector (hp : s.phase = .sector) (hb : s.bidx = 0#12) {n : Nat} (hn : n < 2352) :
    beatOk^[n] s = afterSectorBytes n s := by
  induction n with
  | zero => simp [afterSectorBytes, ← hb]
  | succ n ih =>
    have hidx := toNat_bidx_afterSectorBytes (n := n) (by omega) s
    rw [Function.iterate_succ_apply', ih (by omega), beatOk_sector_inner (afterSectorBytes n s) hp (by omega), hidx,
      afterSectorBytes, afterSectorBytes, take_sector_succ s.tc (by omega), BitVec.ofNat_add, ← List.append_assoc]
    rfl

/-- A beat is on offer until the 2352 bytes are answered. -/
theorem busy_beatOk_iterate_sector (hp : s.phase = .sector) (hb : s.bidx = 0#12) {n : Nat} (hn : n < 2352) :
    busy (beatOk^[n] s) = true := by
  rw [beatOk_iterate_sector hp hb hn]
  exact busy_of_sector hp

/-- The 2352 beats of a sector append it, advance the timecode exactly when ADVA is 1, and take one from SREM (R111). -/
theorem beatOk_iterate_whole_sector (hp : s.phase = .sector) (hb : s.bidx = 0#12) :
    beatOk^[2352] s = { setTc (if s.adva = true then adv s.tc else s.tc) s with
      sink := s.sink ++ sector s.tc, bidx := 0#12, srem := s.srem - 1#8,
      phase := if s.srem - 1#8 = 0#8 then .idle else .sector } := by
  have hidx := toNat_bidx_afterSectorBytes (n := 2351) (by omega) s
  have hwhole : (sector s.tc).take 2351 ++ [sectorByte 2351 s.tc] = sector s.tc := by
    rw [← take_sector_succ s.tc (by omega), List.take_of_length_le (length_sector s.tc).le]
  rw [Function.iterate_succ_apply' beatOk 2351, beatOk_iterate_sector hp hb (by omega),
    beatOk_sector_end (s := afterSectorBytes 2351 s) hp hidx.ge, hidx, ← hwhole, ← List.append_assoc]
  rfl

/-- A sector that is the last of its operation, and that no advance follows (R101). -/
theorem beatOk_iterate_last_sector (hp : s.phase = .sector) (hb : s.bidx = 0#12) (hn : s.srem = 1#8)
    (ha : s.adva = false) :
    beatOk^[2352] s = { s with sink := s.sink ++ sector s.tc, bidx := 0#12, srem := 0#8, phase := .idle } := by
  simp [beatOk_iterate_whole_sector hp hb, ha, hn, setTc_tc]

end Sys2Proof.Machine
end

section
/-! PROOFS. The Sector Encoder (42_sector_encoder.md): the acceptance of ENC (R101), its whole run, and what tells two
sectors apart (R103). -/

namespace Sys2Proof.Machine

/-- Settles O19: a ready block accepts the command, and with a timecode its effect is not USAGE. -/
theorem encCompletes : Obligations.EncCompletes := by
  intro s hp hv
  exact (whenReady_idle s _ hp).trans (congrArg _ (needTimecode_loaded s _ hv))

/-- Settles O41: the first edge starts one sector without advance, and its 2352 answered beats append it. -/
theorem encAppendsOneSector : Obligations.EncAppendsOneSector := by
  intro s p ps rest hp hv hoffer hans henv
  rw [run_command hp hoffer (decodeOfEncode .enc) henv (encCompletes (nextEdge s) hp hv) hans
      fun k hk => busy_beatOk_iterate_sector rfl rfl hk,
    beatOk_iterate_last_sector rfl rfl rfl rfl, hp]
  rfl

/-- Settles O39: of R45's layout only the three header bytes vary, and of the rest the ten 0xFF and the mode byte are
not zero. -/
theorem sectorsDifferByHeader : Obligations.SectorsDifferByHeader := by
  refine ⟨fun t u => ?_, fun t => ?_⟩
  · rw [(sectorLayout t.min t.sec t.frm).2, (sectorLayout u.min u.sec u.frm).2, List.append_left_inj,
      List.append_left_inj, List.append_right_inj]
    simp
  · have hsync : ([0x00#8] ++ List.replicate 10 0xFF#8 ++ [0x00#8]).countP (fun b => b != 0x00#8) = 10 := by decide
    have hmode : [0x01#8].countP (fun b => b != 0x00#8) = 1 := by decide
    have hpayload : (List.replicate 2336 0x00#8).countP (fun b => b != 0x00#8) = 0 := List.countP_replicate
    rw [(sectorLayout t.min t.sec t.frm).2, List.countP_append, List.countP_append, List.countP_append, hsync, hmode,
      hpayload]
    omega

end Sys2Proof.Machine
end

section
/-! PROOFS. The Pregap Generator (43_pregap_generator.md): the acceptance of PREGAP (R110), the advances it makes
(R113), its state at every beat (R115) and its whole run (R112, R114). -/

namespace Sys2Proof.Machine

/-! ## The acceptance -/

/-- Settles O20: a ready block accepts the command, and with a timecode its effect is not USAGE. -/
theorem pregapCompletes : Obligations.PregapCompletes := by
  intro s hp hv
  exact (whenReady_idle s _ hp).trans (congrArg _ (needTimecode_loaded s _ hv))

/-! ## The advances -/

section
variable {t : Tc}

/-- Of a valid timecode's frame count the frame is the last digit. -/
theorem frameCount_mod (ht : t.Valid) : frameCount t % 75 = t.frm := by
  obtain ⟨-, hfrm⟩ := ht
  rw [frameCount]
  omega

/-- The frame goes round every 75 advances. -/
theorem frm_advPow (ht : t.Valid) (k : Nat) : (advPow k t).frm = (t.frm + k) % 75 := by
  rw [← frameCount_mod (advPow_valid ht k), frameCount_advPow ht, Nat.add_mod, frameCount_mod ht, Nat.add_mod_mod]

/-- A frame out of range carries, as frame 74 does (R80). -/
theorem adv_frm_of_carry (hf : 74 ≤ t.frm) : (adv t).frm = 0 := by
  obtain ⟨hf', -, -⟩ | ⟨-, -, e⟩ | ⟨-, -, e⟩ | ⟨hf', -, -⟩ := adv_cases t
  · omega
  · rw [e]
  · rw [e]
  · omega

/-- Settles O35: for a valid origin 150 frames are two seconds; any other is valid after its first advance, and 149
frames from frame 0 end in frame 74. -/
theorem pregapAdvancesTwoSeconds : Obligations.PregapAdvancesTwoSeconds := by
  intro t
  refine ⟨fun ht hs => ?_, fun ht hs => ?_, fun hf => ?_⟩
  · have ⟨_, hfrm⟩ := ht
    exact advPow_eq_of_frameCount ht ⟨Nat.add_le_add_right hs 2, hfrm⟩ (by simp only [frameCount]; omega)
  · have ⟨hsec, hfrm⟩ := ht
    exact advPow_eq_of_frameCount ht ⟨(Nat.sub_le ..).trans hsec, hfrm⟩ (by simp only [frameCount]; omega)
  · have hzero : (adv t).frm = 0 := adv_frm_of_carry hf.le
    refine ⟨hzero, ?_⟩
    rw [advPow, frm_advPow (adv_valid t), hzero]

end

/-! ## A counter taken down -/

section
variable {w n : Nat} {x : BitVec w}

theorem toNat_sub_ofNat (hn : n ≤ x.toNat) : (x - BitVec.ofNat w n).toNat = x.toNat - n := by
  have hofNat : (BitVec.ofNat w n).toNat = n := (BitVec.toNat_ofNat ..).trans (Nat.mod_eq_of_lt (hn.trans_lt x.isLt))
  rw [BitVec.toNat_sub_of_le (BitVec.le_def.2 (hofNat.trans_le hn)), hofNat]

theorem sub_ofNat_ne_zero (hn : n < x.toNat) : x - BitVec.ofNat w n ≠ 0#w := by
  intro h
  have hleft := toNat_sub_ofNat hn.le
  rw [h, BitVec.toNat_zero] at hleft
  omega

theorem sub_ofNat_succ (x : BitVec w) (n : Nat) : x - BitVec.ofNat w n - 1#w = x - BitVec.ofNat w (n + 1) := by
  rw [BitVec.ofNat_add, sub_sub]

end

/-! ## The beats of a run of zeros -/

section
variable {s : State} {n : Nat}

/-- The state in which `n` bytes of a run of zeros that began in `s` are in the sink (R17). -/
def afterZeros (n : Nat) (s : State) : State :=
  { s with
    sink := s.sink ++ List.replicate n 0x00#8, nrem := s.nrem - BitVec.ofNat 28 n,
    phase := if s.nrem - BitVec.ofNat 28 n = 0#28 then afterNull s else .zeros }

theorem phase_afterZeros (hn : n < s.nrem.toNat) : (afterZeros n s).phase = .zeros :=
  if_neg (sub_ofNat_ne_zero hn)

theorem toNat_nrem_afterZeros (hn : n ≤ s.nrem.toNat) : (afterZeros n s).nrem.toNat = s.nrem.toNat - n :=
  toNat_sub_ofNat hn

theorem tc_afterZeros (n : Nat) (s : State) : (afterZeros n s).tc = s.tc := rfl

/-- A whole run of zeros leaves none to come, and the phase R17 calls `after_null`. -/
theorem afterZeros_all (s : State) : afterZeros s.nrem.toNat s =
    { s with sink := s.sink ++ List.replicate s.nrem.toNat 0x00#8, nrem := 0#28, phase := afterNull s } := by
  simp [afterZeros]

/-- The answered beats of a run of zeros, the last of which ends it (R17). -/
theorem beatOk_iterate_zeros (hp : s.phase = .zeros) (hpos : 0 < s.nrem.toNat) (hn : n ≤ s.nrem.toNat) :
    beatOk^[n] s = afterZeros n s := by
  induction n with
  | zero =>
    have hne : s.nrem ≠ 0#28 := by simpa using sub_ofNat_ne_zero hpos
    simp [afterZeros, hne, ← hp]
  | succ n ih =>
    rw [Function.iterate_succ_apply', ih (by omega), beatOk_zeros _ (phase_afterZeros hn), afterZeros, afterZeros,
      sub_ofNat_succ, List.append_assoc, ← List.replicate_succ']
    rfl

end

/-! ## The beats of a row of sectors with an advance after each -/

section
variable {s : State} {k : Nat}

theorem advPow_succ' (k : Nat) (t : Tc) : advPow (k + 1) t = adv (advPow k t) := by
  induction k generalizing t with
  | zero => rfl
  | succ k ih => exact ih (adv t)

theorem sectorsFrom_succ' (k : Nat) (t : Tc) : sectorsFrom (k + 1) t = sectorsFrom k t ++ sector (advPow k t) := by
  induction k generalizing t with
  | zero => simp [sectorsFrom, advPow]
  | succ k ih => rw [sectorsFrom, ih, sectorsFrom, advPow, List.append_assoc]

/-- The state in which `k` sectors of a row that began in `s` are in the sink (R111). -/
def afterSectors (k : Nat) (s : State) : State :=
  { setTc (advPow k s.tc) s with
    sink := s.sink ++ sectorsFrom k s.tc, bidx := 0#12, srem := s.srem - BitVec.ofNat 8 k,
    phase := if s.srem - BitVec.ofNat 8 k = 0#8 then .idle else .sector }

theorem phase_afterSectors (hk : k < s.srem.toNat) : (afterSectors k s).phase = .sector :=
  if_neg (sub_ofNat_ne_zero hk)

theorem toNat_srem_afterSectors (hk : k ≤ s.srem.toNat) : (afterSectors k s).srem.toNat = s.srem.toNat - k :=
  toNat_sub_ofNat hk

/-- The advanced timecode fits the registers, whatever it started from (R15). -/
theorem tc_setTc_advPow (k : Nat) (s : State) : (setTc (advPow k s.tc) s).tc = advPow k s.tc := by
  cases k with
  | zero => rw [advPow, setTc_tc]
  | succ k => exact tc_setTc_of_valid (advPow_valid (adv_valid s.tc) k) s

theorem tc_afterSectors (k : Nat) (s : State) : (afterSectors k s).tc = advPow k s.tc := tc_setTc_advPow k s

/-- A whole row of sectors leaves none to come. -/
theorem afterSectors_all (s : State) : afterSectors s.srem.toNat s =
    { setTc (advPow s.srem.toNat s.tc) s with
      sink := s.sink ++ sectorsFrom s.srem.toNat s.tc, bidx := 0#12, srem := 0#8, phase := .idle } := by
  simp [afterSectors]

/-- The answered beats of a row of sectors, sector by sector; the last ends the operation (R111). -/
theorem beatOk_iterate_sectors (hp : s.phase = .sector) (hb : s.bidx = 0#12) (ha : s.adva = true)
    (hpos : 0 < s.srem.toNat) (hk : k ≤ s.srem.toNat) : beatOk^[2352 * k] s = afterSectors k s := by
  induction k with
  | zero =>
    have hne : s.srem ≠ 0#8 := by simpa using sub_ofNat_ne_zero hpos
    simp [afterSectors, advPow, sectorsFrom, hne, setTc_tc, ← hp, ← hb]
  | succ k ih =>
    have hadva : (afterSectors k s).adva = true := ha
    rw [Nat.mul_succ, Nat.add_comm, Function.iterate_add_apply, ih (by omega),
      beatOk_iterate_whole_sector (phase_afterSectors hk) rfl, if_pos hadva, tc_afterSectors, afterSectors,
      afterSectors, ← advPow_succ', sectorsFrom_succ', sub_ofNat_succ, List.append_assoc]
    rfl

end

/-! ## The beats of a PREGAP -/

theorem tc_nextEdge (s : State) : (nextEdge s).tc = s.tc := rfl

section
variable {s : State} {n k i : Nat}

/-- A PREGAP accepted in `s`, with its TRUNC beat on offer (R110). -/
def pregapStart (s : State) : State := startOperation 176400#28 150#8 true .trunc s

/-- A PREGAP whose first zero is on offer. -/
def pregapZerosStart (s : State) : State := { startOperation 176400#28 150#8 true .zeros s with sink := [] }

/-- A PREGAP whose first sector byte is on offer. -/
def pregapSectorsStart (s : State) : State :=
  { startOperation 0#28 150#8 true .sector s with sink := List.replicate 176400 0x00#8 }

theorem toNat_nrem_pregapZerosStart (s : State) : (pregapZerosStart s).nrem.toNat = 176400 := rfl

theorem toNat_srem_pregapSectorsStart (s : State) : (pregapSectorsStart s).srem.toNat = 150 := rfl

theorem afterZeros_pregap (s : State) : afterZeros 176400 (pregapZerosStart s) = pregapSectorsStart s :=
  afterZeros_all (pregapZerosStart s)

theorem phase_afterZeros_pregap (hn : n < 176400) : (afterZeros n (pregapZerosStart s)).phase = .zeros :=
  phase_afterZeros (hn.trans_eq (toNat_nrem_pregapZerosStart s).symm)

theorem phase_afterSectorBytes (n : Nat) (s : State) : (afterSectorBytes n s).phase = s.phase := rfl

theorem phase_afterSectors_pregap (hk : k < 150) : (afterSectors k (pregapSectorsStart s)).phase = .sector :=
  phase_afterSectors (hk.trans_eq (toNat_srem_pregapSectorsStart s).symm)

/-- The TRUNC beat answered (R115). -/
theorem beatOk_pregapStart (s : State) : beatOk (pregapStart s) = pregapZerosStart s := beatOk_trunc (pregapStart s) rfl

/-- The TRUNC beat and `n` zeros answered (R115, row ZEROS). -/
theorem beatOk_iterate_pregap_zeros (hn : n ≤ 176400) :
    beatOk^[1 + n] (pregapStart s) = afterZeros n (pregapZerosStart s) := by
  have hnrem := toNat_nrem_pregapZerosStart s
  rw [Nat.add_comm, Function.iterate_succ_apply, beatOk_pregapStart]
  exact beatOk_iterate_zeros rfl (by omega) (by omega)

/-- The TRUNC beat, the zeros and `k` whole sectors answered (R115). -/
theorem beatOk_iterate_pregap_sectors (hk : k ≤ 150) :
    beatOk^[1 + (176400 + 2352 * k)] (pregapStart s) = afterSectors k (pregapSectorsStart s) := by
  have hsrem := toNat_srem_pregapSectorsStart s
  rw [← Nat.add_assoc, Nat.add_comm, Function.iterate_add_apply, beatOk_iterate_pregap_zeros le_rfl, afterZeros_pregap]
  exact beatOk_iterate_sectors rfl rfl rfl (by omega) (by omega)

/-- The TRUNC beat, the zeros, `k` sectors and `i` bytes of the next answered (R115, row SECTOR). -/
theorem beatOk_iterate_pregap_bytes (hk : k < 150) (hi : i < 2352) :
    beatOk^[1 + (176400 + 2352 * k + i)] (pregapStart s) =
      afterSectorBytes i (afterSectors k (pregapSectorsStart s)) := by
  rw [← Nat.add_assoc, Nat.add_comm, Function.iterate_add_apply, beatOk_iterate_pregap_sectors hk.le]
  exact beatOk_iterate_sector (phase_afterSectors_pregap hk) rfl hi

/-- Every beat answered: the region of R110 is in the sink, and the 150 advances are made (R112). -/
theorem beatOk_iterate_pregap (s : State) :
    beatOk^[529201] (pregapStart s) = { setTc (advPow 150 s.tc) s with
      sink := pregapRegion s.tc, nrem := 0#28, srem := 0#8, bidx := 0#12, adva := true, phase := .idle } := by
  have hbeats : 529201 = 1 + (176400 + 2352 * 150) := rfl
  rw [hbeats, beatOk_iterate_pregap_sectors le_rfl]
  exact afterSectors_all (pregapSectorsStart s)

/-- A beat is on offer until the 529,201 beats are answered (R110). -/
theorem busy_beatOk_iterate_pregap (hn : n < 529201) : busy (beatOk^[n] (pregapStart s)) = true := by
  obtain rfl | hpos := Nat.eq_zero_or_pos n
  · exact busy_of_trunc rfl
  obtain ⟨m, rfl⟩ := Nat.exists_eq_add_of_le hpos
  obtain hm | hm := Nat.lt_or_ge m 176400
  · rw [beatOk_iterate_pregap_zeros hm.le]
    exact busy_of_zeros (phase_afterZeros_pregap hm)
  · have hsplit : m = 176400 + 2352 * ((m - 176400) / 2352) + (m - 176400) % 2352 := by omega
    have hk : (m - 176400) / 2352 < 150 := by omega
    rw [hsplit, beatOk_iterate_pregap_bytes hk (Nat.mod_lt _ (by decide))]
    exact busy_of_sector ((phase_afterSectorBytes ..).trans (phase_afterSectors_pregap hk))

/-- A row of R115: what is known of the state after some of the beats. -/
def PregapRow (phase : Phase) (nrem srem bidx : Nat) (tc : Tc) (sink : List Byte) (t : State) : Prop :=
  t.phase = phase ∧ t.nrem.toNat = nrem ∧ t.srem.toNat = srem ∧ t.bidx.toNat = bidx ∧ t.tc = tc ∧ t.sink = sink

/-- Row ZEROS of R115. -/
theorem pregapRow_zeros (hn : n < 176400) (s : State) :
    PregapRow .zeros (176400 - n) 150 0 s.tc (List.replicate n 0x00#8) (beatOk^[1 + n] (pregapStart s)) := by
  rw [beatOk_iterate_pregap_zeros hn.le]
  exact ⟨phase_afterZeros_pregap hn, toNat_nrem_afterZeros hn.le, rfl, rfl, tc_afterZeros n (pregapZerosStart s), rfl⟩

/-- Row SECTOR of R115. -/
theorem pregapRow_sector (hk : k < 150) (hi : i < 2352) (s : State) :
    PregapRow .sector 0 (150 - k) i (advPow k s.tc)
      (List.replicate 176400 0x00#8 ++ sectorsFrom k s.tc ++ (sector (advPow k s.tc)).take i)
      (beatOk^[1 + (176400 + 2352 * k + i)] (pregapStart s)) := by
  have htc : (afterSectors k (pregapSectorsStart s)).tc = advPow k s.tc := tc_afterSectors k (pregapSectorsStart s)
  rw [beatOk_iterate_pregap_bytes hk hi, ← htc]
  exact ⟨phase_afterSectors_pregap hk, rfl, toNat_srem_afterSectors hk.le, toNat_bidx_afterSectorBytes hi _, rfl, rfl⟩

end

/-! ## The run of a PREGAP -/

section
variable {s : State} {p : Pins} {ps rest : List Pins} {n : Nat} (hp : s.phase = .idle) (hv : s.tcv = true)
  (hoffer : p.Offers 0x40000000#32) (hans : answersOk ps n = true) (henv : s.env = p :: ps ++ rest) (hn : n ≤ 529201)
include hp hv hoffer hans henv hn

/-- Edges that offer PREGAP to a ready block with a timecode and then answer `n` of its beats. -/
theorem run_pregap :
    run (1 + ps.length) s = .next { beatOk^[n] (pregapStart (nextEdge s)) with
      env := rest, tick := s.tick + (1 + ps.length) } :=
  run_command hp hoffer (decodeOfEncode .pregap) henv (pregapCompletes (nextEdge s) hp hv) hans
    fun _ hk => busy_beatOk_iterate_pregap (hk.trans_le hn)

/-- A row speaks neither of the inputs to come nor of the edge counter, so the delays of the run do not show in it. -/
theorem exists_run_pregap {phase : Phase} {nrem srem bidx : Nat} {tc : Tc} {sink : List Byte}
    (hrow : PregapRow phase nrem srem bidx tc sink (beatOk^[n] (pregapStart (nextEdge s)))) :
    ∃ t, run (1 + ps.length) s = .next t ∧ PregapRow phase nrem srem bidx tc sink t :=
  ⟨_, run_pregap hp hv hoffer hans henv hn, hrow⟩

end

/-- Settles O44: the row ZEROS is a run of zeros cut short, the row SECTOR whole sectors and then one
cut short. -/
theorem pregapStateAtEachBeat : Obligations.PregapStateAtEachBeat := by
  intro s p ps rest n hp hv hoffer hans henv
  refine ⟨fun hn => ?_, fun k i hk hi hn => ?_⟩
  · exact exists_run_pregap hp hv hoffer hans henv (by omega) (pregapRow_zeros hn (nextEdge s))
  · subst hn
    exact exists_run_pregap hp hv hoffer hans henv (by omega) (pregapRow_sector hk hi (nextEdge s))

/-- Settles O43: TRUNC empties the sink, and the zeros and the 150 sectors that the other beats append are the
region. -/
theorem pregapEmitsItsRegion : Obligations.PregapEmitsItsRegion := by
  intro s p ps rest hp hv hoffer hans henv
  have htc : (setTc (advPow 150 s.tc) s).tc = advPow 150 s.tc := tc_setTc_advPow 150 s
  refine ⟨_, run_pregap hp hv hoffer hans henv le_rfl, ?_⟩
  rw [beatOk_iterate_pregap, tc_nextEdge, hp]
  change _ = advPow 150 s.tc ∧ _
  -- as a variable, the advanced timecode is nothing that `rfl` would compute
  generalize advPow 150 s.tc = u at *
  exact ⟨htc, rfl⟩

end Sys2Proof.Machine
end

section
/-! PROOFS. The Null Generator (44_null_generator.md): the acceptance of NULL, its beats and its whole run (R120). -/

namespace Sys2Proof.Machine

variable {count : BitVec 28} {s : State} {n : Nat}

/-- Settles O21: a ready block accepts the command, whose effect asks for no timecode. -/
theorem nullCompletes : Obligations.NullCompletes := fun _ s hp => whenReady_idle s _ hp

/-- A NULL's word is its opcode beside its count (R61). -/
theorem encode_null (count : BitVec 28) : encode (.null count) = 0x50000000#32 ||| count.setWidth 32 := by
  rw [encode, encodeLow, BitVec.append_def, BitVec.setWidth'_eq]
  rfl

/-! ## The beats of a NULL -/

/-- A NULL accepted in `s`, with its TRUNC beat on offer (R120). -/
def nullStart (count : BitVec 28) (s : State) : State := startOperation count 0#8 false .trunc s

/-- A NULL whose first zero is on offer; it is reached when `count` is not 0. -/
def nullZerosStart (count : BitVec 28) (s : State) : State :=
  { startOperation count 0#8 false .zeros s with sink := [] }

/-- The TRUNC beat empties the sink; a NULL of no zeros ends with it (R120). -/
theorem beatOk_nullStart (count : BitVec 28) (s : State) :
    beatOk (nullStart count s) =
      { nullZerosStart count s with phase := if 0 < count.toNat then .zeros else .idle } :=
  beatOk_trunc (nullStart count s) rfl

/-- The TRUNC beat and `n` zeros answered (R17). -/
theorem beatOk_iterate_null (hn : n ≤ count.toNat) :
    beatOk^[1 + n] (nullStart count s) = afterZeros n (nullZerosStart count s) := by
  rw [Nat.add_comm, Function.iterate_succ_apply, beatOk_nullStart]
  obtain hzero | hpos := Nat.eq_zero_or_pos count.toNat
  · obtain rfl : count = 0#28 := BitVec.eq_of_toNat_eq hzero
    obtain rfl : n = 0 := Nat.le_zero.1 hn
    simp [afterZeros, nullZerosStart, afterNull]
  · rw [if_pos hpos]
    exact beatOk_iterate_zeros rfl hpos hn

/-- Every beat answered: exactly `count` zeros are in the sink (R120). -/
theorem beatOk_iterate_whole_null (count : BitVec 28) (s : State) :
    beatOk^[1 + count.toNat] (nullStart count s) =
      { startOperation 0#28 0#8 false .idle s with sink := List.replicate count.toNat 0x00#8 } := by
  rw [beatOk_iterate_null le_rfl]
  exact afterZeros_all (nullZerosStart count s)

/-- A beat is on offer until the `1 + count` beats are answered (R120). -/
theorem busy_beatOk_iterate_null (hn : n < 1 + count.toNat) : busy (beatOk^[n] (nullStart count s)) = true := by
  cases n with
  | zero => exact busy_of_trunc rfl
  | succ m =>
    have hm : m < count.toNat := by omega
    rw [Nat.add_comm, beatOk_iterate_null hm.le]
    exact busy_of_zeros (phase_afterZeros (s := nullZerosStart count s) hm)

/-! ## The run of a NULL -/

/-- Settles O42: TRUNC empties the sink, and the `count` other beats, which may be none, append a zero each. -/
theorem nullLeavesZeros : Obligations.NullLeavesZeros := by
  intro count s p ps rest hp hoffer hans henv
  rw [← encode_null] at hoffer
  have hx : exec (.null count) (nextEdge s) = .next (nullStart count (nextEdge s)) :=
    nullCompletes count (nextEdge s) hp
  rw [run_command hp hoffer (decodeOfEncode (.null count)) henv hx hans fun _ hk => busy_beatOk_iterate_null hk,
    beatOk_iterate_whole_null, hp]
  rfl

end Sys2Proof.Machine
end

section
/-! PROOFS. The two faults and HALT (60_exceptions.md): USAGE in place of a command's effect (R131), SINK in place of a
beat's (R132), and reset as the only way out (R137). -/

namespace Sys2Proof.Machine

variable {s : State}

/-! ## USAGE (R131) -/

/-- A command that needs a timecode, accepted while none was loaded, raises USAGE and has no other effect. -/
theorem exec_unloaded {i : Instr} (needs : i = .adv ∨ i = .enc ∨ i = .pregap) (hp : s.phase = .idle)
    (unloaded : s.tcv = false) : exec i s = .next (raiseFault usageCode s) := by
  obtain rfl | rfl | rfl := needs
  all_goals exact (whenReady_idle s _ hp).trans (congrArg _ (needTimecode_unloaded s _ unloaded))

/-- A word whose command needs a timecode, offered while none was loaded, raises USAGE. -/
theorem offerCommand_unloaded {cw : Word} (hp : s.phase = .idle) (unloaded : s.tcv = false)
    (hd : decode cw = .instr .adv ∨ decode cw = .instr .enc ∨ decode cw = .instr .pregap) :
    offerCommand cw s = .next (raiseFault usageCode s) := by
  obtain hd | hd | hd := hd <;> rw [offerCommand, hd] <;> exact exec_unloaded (by simp) hp unloaded

/-- Settles O22: an illegal word and a command that lacks its timecode both answer USAGE, and HALT offers no beat. -/
theorem usageReplacesTheEffect : Obligations.UsageReplacesTheEffect := by
  rintro cw s hp ⟨hr, hv, rfl⟩ hcause
  refine ⟨raiseFault usageCode (nextEdge s), ?_, rfl, offeredBeat_of_not_busy (busy_false_of_halt _ rfl)⟩
  rw [step_idle_offer s hr hp hv]
  obtain ⟨why, hd⟩ | ⟨unloaded, hd⟩ := hcause
  · exact offerCommand_illegal (s := nextEdge s) hp hd
  · exact offerCommand_unloaded (s := nextEdge s) hp unloaded hd

/-! ## SINK (R132) -/

/-- The edge of a beat answered `err`, whatever `snk_ready` is (R134). -/
theorem step_err (hb : busy s = true) (hr : (currentPins s).rst = false) (he : (currentPins s).snkErr = true) :
    step s = .next (beatErr (nextEdge s)) := by
  simp [step_busy s hr hb, answerBeat, he]

/-- The sink took the failed beat or did not (R43, U7). -/
theorem beatErr_sink_cases (s : State) :
    (beatErr s).sink = s.sink ∨ ∃ b, offeredBeat s = some b ∧ (beatErr s).sink = takeBeat b s.sink := by
  rw [beatErr_sink]
  split
  · exact sinkAfterBeat_cases s
  · exact .inl rfl

/-- Settles O29: `beatErr` writes FAULT, PHASE and, if the failed beat was taken, the sink; HALT offers no beat. -/
theorem errAnswerRaisesSink : Obligations.ErrAnswerRaisesSink := by
  intro s hb hr he
  exact ⟨beatErr (nextEdge s), (beatErr (nextEdge s)).sink, step_err hb hr he, rfl, beatErr_sink_cases (nextEdge s),
    offeredBeat_of_not_busy (busy_false_of_halt _ rfl)⟩

/-! ## HALT (R137) -/

/-- A halted block is not final (R162). -/
theorem not_isFinal_of_halt (hp : s.phase = .halt) (left : List Word) : ¬s.IsFinal left := by
  rintro ⟨hidle, -, -⟩
  rw [hp] at hidle
  contradiction

/-- Settles O14: without reset a run in HALT only consumes inputs, HALT is not final, and the reset edge leaves it. -/
theorem haltIsLeftOnlyByReset : Obligations.HaltIsLeftOnlyByReset := fun s hp =>
  ⟨fun k _ hfree => run_halt k s hp hfree, not_isFinal_of_halt hp,
    fun hr => ⟨resetEdge (nextEdge s), step_reset s hr, rfl, rfl, rfl⟩⟩

end Sys2Proof.Machine
end

section
/-! PROOFS. The measure of an operation (70_reset_and_hazards.md R165): an answered beat takes one from it, and an
operation whose beats are all answered `ok` ends in IDLE. -/

namespace Sys2Proof.Machine

variable {s t : State}

/-! ## The measure, phase by phase -/

theorem beatsLeft_trunc (hs : s.Inv) (hp : s.phase = .trunc) :
    beatsLeft s = 1 + s.nrem.toNat + 2352 * s.srem.toNat := by
  obtain ⟨hbidx, -⟩ := hs.truncShape hp
  simp [beatsLeft, hp, hbidx]

theorem beatsLeft_not_trunc (hp : s.phase ≠ .trunc) :
    beatsLeft s = s.nrem.toNat + 2352 * s.srem.toNat - s.bidx.toNat := by
  simp [beatsLeft, hp]

/-- A busy block has a beat left: the one on offer. -/
theorem beatsLeft_pos (hs : s.Inv) (hb : busy s = true) : 0 < beatsLeft s := by
  obtain hp | hp | hp := busy_iff.1 hb
  · rw [beatsLeft_trunc hs hp]
    omega
  · obtain ⟨hbidx, hn, -⟩ := hs.zerosShape hp
    rw [beatsLeft_not_trunc (by simp [hp]), hbidx, BitVec.toNat_zero]
    omega
  · obtain ⟨-, -, hbidx, hsrem, -⟩ := hs.sectorShape hp
    rw [beatsLeft_not_trunc (by simp [hp])]
    simp only [Config.sectorBytes] at hbidx
    omega

/-! ## One answered beat -/

theorem afterNull_ne_trunc (s : State) : afterNull s ≠ .trunc := by
  unfold afterNull
  split <;> simp

/-- A TRUNC beat is the first of its operation, so none follows an answered beat. -/
theorem beatOk_phase_ne_trunc (hb : busy s = true) : (beatOk s).phase ≠ .trunc := by
  obtain ⟨-, e⟩ | ⟨-, e⟩ | ⟨hp, -, e⟩ | ⟨-, -, e⟩ := beatOk_cases hb <;> rw [e] <;> dsimp only
  · split_ifs <;> simp [afterNull_ne_trunc]
  · split_ifs <;> simp [afterNull_ne_trunc]
  · simp [hp]
  · split_ifs <;> simp

/-- A beat answered `ok` takes one from the measure. -/
theorem beatsLeft_beatOk (hs : s.Inv) (hb : busy s = true) : beatsLeft (beatOk s) + 1 = beatsLeft s := by
  rw [beatsLeft_not_trunc (beatOk_phase_ne_trunc hb)]
  obtain ⟨hp, e⟩ | ⟨hp, e⟩ | ⟨hp, hlt, e⟩ | ⟨hp, hge, e⟩ := beatOk_cases hb
  · obtain ⟨hbidx, -⟩ := hs.truncShape hp
    rw [beatsLeft_trunc hs hp, e]
    dsimp only
    rw [hbidx, BitVec.toNat_zero]
    omega
  · obtain ⟨hbidx, hn, -⟩ := hs.zerosShape hp
    have hleft : (s.nrem - 1#28).toNat = s.nrem.toNat - 1 := by bv_omega
    rw [beatsLeft_not_trunc (by simp [hp]), e]
    dsimp only
    rw [hleft, hbidx, BitVec.toNat_zero]
    omega
  · obtain ⟨-, hn, -, hsrem, -⟩ := hs.sectorShape hp
    have hnext : (s.bidx + 1#12).toNat = s.bidx.toNat + 1 := by bv_omega
    rw [beatsLeft_not_trunc (by simp [hp]), e]
    dsimp only
    rw [hnext]
    omega
  · obtain ⟨-, hn, hbidx, hsrem, -⟩ := hs.sectorShape hp
    have hleft : (s.srem - 1#8).toNat = s.srem.toNat - 1 := by bv_omega
    simp only [Config.sectorBytes] at hbidx
    rw [beatsLeft_not_trunc (by simp [hp]), e]
    simp only [setTc_nrem, hleft, hn, BitVec.toNat_zero]
    omega

/-- When `after_null` leaves the block not busy, no sector is left (R17). -/
theorem srem_eq_zero_of_afterNull_not_busy (hp : t.phase = afterNull s) (hb : busy t = false) : s.srem.toNat = 0 := by
  by_contra hsrem
  exact absurd hb (by simp [busy, hp, afterNull, Nat.pos_of_ne_zero hsrem])

/-- The answered beat after which the block is no longer busy was the last: no zero and no sector is left. -/
theorem beatsLeft_beatOk_of_not_busy (hs : s.Inv) (hb : busy s = true) (hend : busy (beatOk s) = false) :
    beatsLeft (beatOk s) = 0 := by
  rw [beatsLeft_not_trunc (beatOk_phase_ne_trunc hb)]
  obtain ⟨-, e⟩ | ⟨-, e⟩ | ⟨hp, -, e⟩ | ⟨hp, -, e⟩ := beatOk_cases hb <;> rw [e] at hend ⊢
  · by_cases hn : 0 < s.nrem.toNat
    · simp [busy, hn] at hend
    · have hsrem : s.srem.toNat = 0 := srem_eq_zero_of_afterNull_not_busy (if_neg hn) hend
      dsimp only
      omega
  · by_cases hz : s.nrem - 1#28 = 0#28
    · have hsrem : s.srem.toNat = 0 := srem_eq_zero_of_afterNull_not_busy (if_pos hz) hend
      simp [hz, hsrem]
    · simp [busy, hz] at hend
  · simp [busy, hp] at hend
  · obtain ⟨-, hn, -⟩ := hs.sectorShape hp
    by_cases hz : s.srem - 1#8 = 0#8
    · simp [hz, hn]
    · simp [busy, hz] at hend

/-- A block that answered a beat is busy exactly while a beat is left. -/
theorem busy_beatOk_iff (hs : s.Inv) (hb : busy s = true) :
    busy (beatOk s) = true ↔ 0 < beatsLeft (beatOk s) := by
  refine ⟨beatsLeft_pos (inv_beatOk hs hb), fun hpos => ?_⟩
  by_contra hend
  exact hpos.ne' (beatsLeft_beatOk_of_not_busy hs hb (Bool.eq_false_iff.2 hend))

/-- Settles O52: the edge is the answered beat's, which neither reads nor writes the pins it consumed. -/
theorem answeredBeatTakesOneFromTheMeasure : Obligations.AnsweredBeatTakesOneFromTheMeasure := by
  intro s t hs hb hr he hk h
  rw [step_ok hb hr he hk] at h
  cases h
  exact ⟨beatsLeft_beatOk (s := nextEdge s) hs hb, busy_beatOk_iff (s := nextEdge s) hs hb⟩

/-! ## A whole operation -/

/-- The operation under way has `n` beats left; with none left it is over, without a fault. -/
def HasBeatsLeft (n : Nat) (s : State) : Prop :=
  s.Inv ∧ s.fault = 0#2 ∧ beatsLeft s = n ∧ (busy s = true ↔ 0 < n)

theorem hasBeatsLeft_of_busy (hs : s.Inv) (hb : busy s = true) : HasBeatsLeft (beatsLeft s) s := by
  have hp : s.phase ≠ .halt := fun hp => by simp [busy, hp] at hb
  exact ⟨hs, hs.fault_eq_zero hp, rfl, iff_of_true hb (beatsLeft_pos hs hb)⟩

theorem HasBeatsLeft.busy_of_pos {n : Nat} (h : HasBeatsLeft n s) (hn : 0 < n) : busy s = true := by
  obtain ⟨-, -, -, hbusy⟩ := h
  exact hbusy.2 hn

/-- With no beat left the block is neither busy nor halted. -/
theorem HasBeatsLeft.phase_of_zero (h : HasBeatsLeft 0 s) : s.phase = .idle := by
  obtain ⟨hs, hf, -, hbusy⟩ := h
  have hend : busy s = false := by simpa using hbusy
  cases hp : s.phase with
  | idle => rfl
  | trunc | zeros | sector => simp [busy, hp] at hend
  | halt => exact absurd hf (hs.halt_iff.1 hp)

theorem HasBeatsLeft.after_beatOk {n : Nat} (h : HasBeatsLeft (n + 1) s) : HasBeatsLeft n (beatOk s) := by
  have hb := h.busy_of_pos n.succ_pos
  obtain ⟨hs, hf, hn, -⟩ := h
  obtain ⟨-, hfault, -, -⟩ := beatOk_frame hb
  have hleft : beatsLeft (beatOk s) = n := by
    have := beatsLeft_beatOk hs hb
    omega
  exact ⟨inv_beatOk hs hb, hfault.trans hf, hleft, hleft ▸ busy_beatOk_iff hs hb⟩

theorem HasBeatsLeft.iterate {k n : Nat} (h : HasBeatsLeft (n + k) s) : HasBeatsLeft n (beatOk^[k] s) := by
  induction k generalizing n with
  | zero => exact h
  | succ k ih =>
    rw [Function.iterate_succ_apply']
    exact (ih (n := n + 1) (by rwa [Nat.add_right_comm])).after_beatOk

/-- Settles O53: the delays drop out, and the iterated beats count the measure down to 0, where the block is idle. -/
theorem operationsTerminate : Obligations.OperationsTerminate := by
  intro s ps rest hs hb hans henv
  have hleft := hasBeatsLeft_of_busy hs hb
  have hbusy : ∀ k < beatsLeft s, busy (beatOk^[k] s) = true := fun k hk =>
    HasBeatsLeft.busy_of_pos (n := beatsLeft s - k)
      (HasBeatsLeft.iterate (by rwa [Nat.sub_add_cancel hk.le])) (Nat.sub_pos_of_lt hk)
  have hend : HasBeatsLeft 0 (beatOk^[beatsLeft s] s) := HasBeatsLeft.iterate (by rwa [Nat.zero_add])
  have hphase := hend.phase_of_zero
  obtain ⟨-, hfault, -, -⟩ := hend
  exact ⟨_, run_answersOk hans henv hbusy, hphase, hfault, rfl⟩

end Sys2Proof.Machine
end

section
/-! PROOFS. Runs that complete (70_reset_and_hazards.md R162): a reset begins them, and TCV tells whether an LDT was
accepted. -/

namespace Sys2Proof.Machine

variable {s t : State}

/-! ## TCV along a run -/

/-- The word is an LDT's. -/
def IsLdt (cw : Word) : Prop := ∃ mm ss ff, decode cw = .instr (.ldt mm ss ff)

theorem mem_acceptedNow_iff {cw : Word} : cw ∈ acceptedNow s ↔ s.phase = .idle ∧ (currentPins s).Offers cw := by
  simp only [acceptedNow, cmdReady, decide_eq_true_eq, Pins.Offers]
  split_ifs with h
  · obtain ⟨hr, hp, hv⟩ := h
    simp [hr, hp, hv, eq_comm]
  · simp only [List.not_mem_nil, false_iff]
    exact fun ⟨hp, hr, hv, _⟩ => h ⟨hr, hp, hv⟩

/-- An accepted LDT sets TCV (R81). -/
theorem tcv_of_ldt_accepted {cw : Word} (h : step s = .next t) (hcw : cw ∈ acceptedNow s) (hldt : IsLdt cw) :
    t.tcv = true := by
  obtain ⟨hp, ho⟩ := mem_acceptedNow_iff.1 hcw
  obtain ⟨mm, ss, ff, hd⟩ := hldt
  have hnext := (stepRunsTheDecodedCommand cw _ s hp ho hd).trans (ldtCompletes mm ss ff (nextEdge s) hp)
  rw [h] at hnext
  cases hnext
  rfl

/-- After an edge without reset TCV is 1 exactly if it was, or an LDT was accepted at the edge (R14). -/
theorem tcv_step_iff (h : step s = .next t) (hr : (currentPins s).rst = false) :
    t.tcv = true ↔ s.tcv = true ∨ ∃ cw ∈ acceptedNow s, IsLdt cw := by
  by_cases hne : t.tcv = s.tcv
  · rw [hne]
    refine ⟨.inl, ?_⟩
    rintro (hs | ⟨cw, hcw, hldt⟩)
    · exact hs
    · exact hne ▸ tcv_of_ldt_accepted h hcw hldt
  · obtain ⟨hr', -⟩ | ⟨hp, ht, cw, mm, ss, ff, ho, hd⟩ := tcvIsSetOnlyByLdt s t h hne
    · simp [hr] at hr'
    · exact iff_of_true ht (.inr ⟨cw, mem_acceptedNow_iff.2 ⟨hp, ho⟩, mm, ss, ff, hd⟩)

/-- Over edges without reset TCV is set exactly by the LDTs accepted. -/
theorem tcv_run_iff {k : Nat} (hfree : resetFree k s) (hrun : run k s = .next t) :
    t.tcv = true ↔ s.tcv = true ∨ ∃ cw ∈ acceptedWords k s, IsLdt cw := by
  induction k generalizing s with
  | zero =>
    cases hrun
    simp [acceptedWords]
  | succ k ih =>
    obtain ⟨u, hstep, henv, -⟩ := everyEdgeHasANextState s
    obtain ⟨hr, hrest⟩ := resetFree_succ hfree henv
    rw [run_succ k hstep] at hrun
    simp only [ih hrest hrun, tcv_step_iff hstep hr, acceptedWords_succ k hstep, List.mem_append, or_and_right,
      exists_or, or_assoc]

/-! ## Completed runs -/

/-- Settles O54: a final state is idle without a fault, so its status shows only TCV, and no beat failed. -/
theorem completedRunIsFinal : Obligations.CompletedRunIsFinal := by
  rintro program k s t ⟨hreset, hfree, hrun, left, hprogram, hp, hf, rfl⟩
  obtain rfl : program = acceptedWords k s := by simpa using hprogram
  refine ⟨rfl, ?_, statusWord_of_idle hp hf, offeredBeat_of_not_busy (busy_false_of_idle t hp),
    sinkIsTheFoldOfAnsweredBeats k s t hfree hrun (by simp [hf])⟩
  simpa [hreset.tcv, IsLdt] using tcv_run_iff hfree hrun

/-- A reset of the reset state leaves any sink it holds and any inputs to come: no beat is on offer to withdraw. -/
theorem afterReset_reset (sink : List Byte) (env : List Pins) :
    AfterReset { State.reset with sink := sink, env := env } := by
  have hsink : (resetEdge { State.reset with sink := sink, env := env }).sink = sink := ite_self sink
  exact ⟨{ State.reset with sink := sink, env := env },
    congrArg (fun l => { State.reset with sink := l, env := env }) hsink.symm⟩

/-- A completed run ends in IDLE with the whole program accepted. -/
theorem RunCompletes.idle_and_accepted {program : List Word} {k : Nat} (h : RunCompletes program k s t) :
    t.phase = .idle ∧ acceptedWords k s = program := by
  obtain ⟨-, -, -, left, hprogram, hp, -, rfl⟩ := h
  exact ⟨hp, by simpa using hprogram.symm⟩

/-- Settles O58: a completed run has a reset before it and IDLE at its end, and no edge of the empty run is needed. -/
theorem runsBeginWithAReset : Obligations.RunsBeginWithAReset := by
  refine ⟨fun s hr => ⟨_, step_reset s hr, nextEdge s, rfl⟩, afterReset_reset, ?_, ?_, ?_⟩
  · rintro program k s t ⟨hreset, -⟩
    exact ⟨hreset.phase, hreset.tcv, hreset.fault⟩
  · exact fun s hreset => ⟨hreset, by simp [resetFree], rfl, [], rfl, hreset.phase, hreset.fault, rfl⟩
  · intro program k s t hnot h
    obtain ⟨hp, haccepted⟩ := h.idle_and_accepted
    obtain hhalt | hb | hne := hnot
    · simp [hp] at hhalt
    · simp [busy, hp] at hb
    · exact hne haccepted

end Sys2Proof.Machine
end
